-- ==== Sys2Proof/Word.lean ====
section
/-!
DEFINITION. The words of the FRIPS core: the widths the spec gives its registers, its event port
and its command bytes. Bit 0 is the least significant bit everywhere (00_scope.md R10).
-/

namespace Sys2Proof

/-- A binary32 pattern (00_scope.md R11). -/
abbrev F32 := BitVec 32

/-- A 32-bit tick position, or a difference of two (40_tick_extender.md R101, R102). -/
abbrev Tick := BitVec 32

/-- A 16-bit value: `ROLL`, or the hardware pulse counter's value `hw` (10_state.md R21, 20_memory.md R61). -/
abbrev Half := BitVec 16

/-- A received serial byte (20_memory.md R61). -/
abbrev Byte := BitVec 8

/-- The seven bits of a command code (30_encoding.md R85). -/
abbrev Code := BitVec 7

/-- The 20-bit event word `EV` (30_encoding.md R81). -/
abbrev EventWord := BitVec 20

/-- The 4-bit direction outputs `DIR` (10_state.md R38). -/
abbrev Dir := BitVec 4

end Sys2Proof
end

