-- ==== Sys2Proof/Config.lean ====
section
/-!
DEFINITION. What is fixed for one core: the configuration record `CFG` of 00_scope.md R8 (as a type;
State holds a value of it, 10_state.md R40), the types of the PI collaborator's functions (43_pi_loop.md R141),
and the free values: constants without a body, of which nothing can be proved but what holds of any value.
-/

namespace Sys2Proof

/-- A finite binary32 greater than zero: the patterns 1 to 0x7F7FFFFF (00_scope.md R9, R11). A parameter
that R9 requires finite and positive has this type, so that no other value of it can be written. -/
structure PosF32 where
  index : Fin 0x7F7FFFFF
deriving DecidableEq, Repr, Inhabited

/-- The pattern of a positive binary32. -/
def PosF32.bits (x : PosF32) : F32 := BitVec.ofNat 32 (x.index.val + 1)

/-- The positive binary32 of a pattern. -/
def PosF32.ofPattern (n : Nat) (h : n - 1 < 0x7F7FFFFF := by decide) : PosF32 := ⟨⟨n - 1, h⟩⟩

/-- `DIRTAB`: the direction outputs of the five recognised command classes (44_command.md R170). That an entry may
hold the code `11` of a motor, which 10_state.md R38 and 30_encoding.md R91 call never written while 00_scope.md R9
and 10_state.md R40 put no condition on the table, is the model's. DESIGN CHOICE, safe: log entry 21. -/
structure DirTab where
  forward : Dir
  backward : Dir
  left : Dir
  right : Dir
  stop : Dir
deriving DecidableEq, Repr

/-- The configuration record `CFG` (00_scope.md R8), one field per parameter but for the collaborator,
whose functions are `Cfg.pi`. -/
structure Cfg where
  /-- `HW_W`, width of the hardware counter. -/
  hwW : Nat
  /-- `ROLL_W`, width of the rollover counter. -/
  rollW : Nat
  /-- `TICK_W`, width of a tick position. -/
  tickW : Nat
  /-- `F_CLK`, ticks per second. -/
  fClk : PosF32
  /-- `PPR`, pulses per revolution. -/
  ppr : PosF32
  /-- `T_MIN`, near-zero interval threshold. -/
  tMin : F32
  /-- `RPS_MAX`, the upper believability bound. -/
  rpsMax : PosF32
  /-- `ALPHA`, the filter constant. -/
  alpha : F32
  /-- `F_S`, sampling frequency; no rule reads it. -/
  fS : F32
  /-- `T_S`, sample period in seconds. -/
  tS : PosF32
  /-- `DURATION`, the length of a command in samples. -/
  duration : BitVec 32
  /-- `RPS_ON`, the "on" speed. -/
  rpsOn : PosF32
  /-- `MAXC`, the compare value of duty 0. -/
  maxc : BitVec 32
  /-- `OCR_W`, width of a compare register. -/
  ocrW : Nat
  /-- `OUT_MIN`, lower bound of the PI output. -/
  outMin : F32
  /-- `OUT_MAX`, upper bound of the PI output. -/
  outMax : F32
  /-- `KP`, the collaborator's proportional gain. -/
  kp : F32
  /-- `KD`, the collaborator's derivative term. -/
  kd : F32
  /-- `KI_PERIOD`, the collaborator's integral time. -/
  kiPeriod : F32
  /-- `CMD_MASK`, the mask applied to a received byte. -/
  cmdMask : Byte
  /-- `DIRTAB`, the direction table. -/
  dirtab : DirTab
deriving DecidableEq, Repr

/-- A value of the collaborator's type `PI.State`, which the core never looks inside (10_state.md R36):
the words it occupies. -/
structure PiState where
  words : List (BitVec 32)
deriving DecidableEq, Repr, Inhabited

/-- The PI collaborator's three functions (43_pi_loop.md R141 to R144), lawful or not. -/
structure Collaborator where
  /-- `PI.init(kp, kd, ki_period, output_min, output_max)` (R142). -/
  init : F32 → F32 → F32 → F32 → F32 → PiState
  /-- `PI.advance(s, sample_period, error)` (R143). -/
  advance : PiState → F32 → F32 → PiState × F32
  /-- `PI.clear(s)` (R144). -/
  clear : PiState → PiState
deriving Inhabited

/-- The binary32 operations whose result the spec leaves open outside the finite numbers. -/
inductive FloatOp where
  | add | sub | mul | div
deriving DecidableEq, Repr

/-- The two comparisons of 00_scope.md R11. -/
inductive CompareOp where
  | lt | gt
deriving DecidableEq, Repr

namespace Config

/-- `RPS_MAX`: OPEN, no value in the spec (00_scope.md R8). DESIGN CHOICE, safe: log entry 5. -/
opaque rpsMax : PosF32

/-- `RPS_ON`: OPEN, no value in the spec (00_scope.md R8). DESIGN CHOICE, safe: log entry 5. -/
opaque rpsOn : PosF32

/-- `KP`: OPEN, no value in the spec (00_scope.md R8). DESIGN CHOICE, safe: log entry 5. -/
opaque kp : F32

/-- `KD`: OPEN, no value in the spec (00_scope.md R8). DESIGN CHOICE, safe: log entry 5. -/
opaque kd : F32

/-- `KI_PERIOD`: OPEN, no value in the spec (00_scope.md R8). DESIGN CHOICE, safe: log entry 5. -/
opaque kiPeriod : F32

/-- FREE VALUE: the result of a binary32 operation that has no finite result by 00_scope.md R11 (an operand
that is no finite number, a division by zero, an overflow). DESIGN CHOICE, safe: log entry 7. -/
opaque freeF32 : FloatOp → F32 → F32 → F32

/-- FREE VALUE: the answer of a comparison with an operand that is no finite number. DESIGN CHOICE, safe: log entry 7. -/
opaque freeTruth : CompareOp → F32 → F32 → Bool

/-- FREE VALUE: `round_haz` of a pattern that is no finite number. DESIGN CHOICE, safe: log entry 7. -/
opaque freeInteger : F32 → Int

/-- FREE VALUE: what a compare register holds after an integer outside its range is written to it. DESIGN CHOICE,
safe: log entry 9. -/
opaque freeCompare : Int → Nat

end Config

end Sys2Proof
end

