-- ==== Sys2Proof/Machine/Binary32.lean ====
section
/-!
DEFINITION. The binary32 primitives of 00_scope.md R11: the exact real result rounded once, to nearest,
ties to even; exact comparisons; conversion from an unsigned number; rounding to an integer, halves away
from zero.

Every finite binary32 is a whole multiple of `2^-149`. A value is therefore held as an integer, its
`scaled` value, in units of `2^-149`, and every exact result is a fraction of two integers in that unit.
Results outside the finite numbers are free values (log entry 7); the sign of a zero result is that of
IEEE 754 (log entry 8).
-/

namespace Sys2Proof.Machine

open Sys2Proof

/-- `2^149`: how many units of `2^-149` make 1. -/
def f32Unit : Nat := 2 ^ 149

/-- The first magnitude pattern that is no finite number. -/
def f32Infinity : Nat := 0x7F800000

/-- The sign bit. -/
def f32Sign (x : F32) : Bool := x.msb

/-- The 31 bits below the sign. -/
def f32MagnitudeBits (x : F32) : Nat := x.toNat % 2 ^ 31

/-- Whether a pattern is a finite number: its exponent field is not all ones. -/
def f32IsFinite (x : F32) : Bool := f32MagnitudeBits x < f32Infinity

/-- The magnitude, in units of `2^-149`, that 31 magnitude bits stand for. -/
def f32MagnitudeOf (bits : Nat) : Nat :=
  if bits < 2 ^ 23 then bits else (2 ^ 23 + bits % 2 ^ 23) * 2 ^ (bits / 2 ^ 23 - 1)

/-- The magnitude of a finite pattern in units of `2^-149`. -/
def f32Magnitude (x : F32) : Nat := f32MagnitudeOf (f32MagnitudeBits x)

/-- The value of a finite pattern in units of `2^-149`. -/
def f32Scaled (x : F32) : Int :=
  if f32Sign x then - (f32Magnitude x : Int) else (f32Magnitude x : Int)

/-- `num / den` rounded to an integer, ties to even. -/
def roundHalfEven (num den : Nat) : Nat :=
  if 2 * (num % den) < den then num / den
  else if den < 2 * (num % den) then num / den + 1
  else num / den + (num / den) % 2

/-- How far the last place of a magnitude `q` (whole units) stands above the unit: 24 bits are kept. -/
def f32Shift (q : Nat) : Nat := if q < 2 ^ 24 then 0 else Nat.log2 q - 23

/-- The magnitude bits of `num / den` units, rounded once to nearest, ties to even (R11). A value of
`0x7F800000` or more stands for an overflow. -/
def f32RoundBits (num den : Nat) : Nat :=
  f32Shift (num / den) * 2 ^ 23 + roundHalfEven num (den * 2 ^ f32Shift (num / den))

/-- The pattern of a sign and finite magnitude bits. -/
def f32Pack (neg : Bool) (bits : Nat) : F32 :=
  BitVec.ofNat 32 ((if neg then 2 ^ 31 else 0) + bits)

/-- The exact value `± num / den` units rounded to binary32; beyond the largest finite number the result is free. -/
def f32Round (op : FloatOp) (a b : F32) (neg : Bool) (num den : Nat) : F32 :=
  if f32RoundBits num den < f32Infinity then f32Pack neg (f32RoundBits num den)
  else Config.freeF32 op a b

/-- An exact sum of `z` units rounded to binary32; `zeroNeg` is the sign of an exact zero. -/
def f32RoundSum (op : FloatOp) (a b : F32) (zeroNeg : Bool) (z : Int) : F32 :=
  if z = 0 then f32Pack zeroNeg 0 else f32Round op a b (decide (z < 0)) z.natAbs 1

/-- `fadd(a, b)` (R11). -/
def fadd (a b : F32) : F32 :=
  if f32IsFinite a && f32IsFinite b then
    f32RoundSum .add a b (f32Sign a && f32Sign b) (f32Scaled a + f32Scaled b)
  else Config.freeF32 .add a b

/-- `fsub(a, b)` (R11); `fsub(x, x)` is `+0.0` (93_implementation_defined.md U17). -/
def fsub (a b : F32) : F32 :=
  if f32IsFinite a && f32IsFinite b then
    f32RoundSum .sub a b (f32Sign a && !f32Sign b) (f32Scaled a - f32Scaled b)
  else Config.freeF32 .sub a b

/-- `fmul(a, b)` (R11). -/
def fmul (a b : F32) : F32 :=
  if f32IsFinite a && f32IsFinite b then
    f32Round .mul a b (f32Sign a != f32Sign b) (f32Magnitude a * f32Magnitude b) f32Unit
  else Config.freeF32 .mul a b

/-- `fdiv(a, b)` (R11); a division by zero has no exact result and is free. -/
def fdiv (a b : F32) : F32 :=
  if f32IsFinite a && f32IsFinite b && f32Magnitude b != 0 then
    f32Round .div a b (f32Sign a != f32Sign b) (f32Magnitude a * f32Unit) (f32Magnitude b)
  else Config.freeF32 .div a b

/-- `flt(a, b)`: exact comparison `a < b` (R11). -/
def flt (a b : F32) : Bool :=
  if f32IsFinite a && f32IsFinite b then decide (f32Scaled a < f32Scaled b)
  else Config.freeTruth .lt a b

/-- `fgt(a, b)`: exact comparison `a > b` (R11). -/
def fgt (a b : F32) : Bool :=
  if f32IsFinite a && f32IsFinite b then decide (f32Scaled b < f32Scaled a)
  else Config.freeTruth .gt a b

/-- `u32_to_f32(n)` (R11): exact for `n <= 2^24`, rounded to nearest, ties to even, above. -/
def u32ToF32 (n : BitVec 32) : F32 :=
  f32Pack false (f32RoundBits (n.toNat * f32Unit) 1)

/-- `round_haz(x)`: a finite binary32 to the nearest integer, halves away from zero (R11). -/
def roundHaz (x : F32) : Int :=
  if f32IsFinite x then
    if f32Sign x then - (((2 * f32Magnitude x + f32Unit) / (2 * f32Unit) : Nat) : Int)
    else (((2 * f32Magnitude x + f32Unit) / (2 * f32Unit) : Nat) : Int)
  else Config.freeInteger x

/-! ### The constants the rules write out -/

/-- `+0.0`. -/
def f32Zero : F32 := 0x00000000#32

/-- `1.0`. -/
def f32One : F32 := 0x3F800000#32

/-- `100.0`. -/
def f32Hundred : F32 := 0x42C80000#32

end Sys2Proof.Machine
end

