-- ==== Sys2Proof/Machine/Configuration.lean ====
section
/-!
DEFINITION. The default configuration (00_scope.md R8), when a configuration is well formed (R9), the
collaborator's contract and the parameter `PI` (43_pi_loop.md R141 to R144).
-/

namespace Sys2Proof

open Sys2Proof.Machine

/-- `DIRTAB`'s default (44_command.md R170). -/
def DirTab.default : DirTab where
  forward := 0b0101#4
  backward := 0b1010#4
  left := 0b0110#4
  right := 0b1001#4
  stop := 0b0000#4

/-- The default configuration: the document's example values, the OPEN parameters free (00_scope.md R8). -/
def Cfg.default : Cfg where
  hwW := 16
  rollW := 16
  tickW := 32
  fClk := PosF32.ofPattern 0x4B742400
  ppr := PosF32.ofPattern 0x43750000
  tMin := 0x3F666666#32
  rpsMax := Config.rpsMax
  alpha := 0x3F000000#32
  fS := 0x427A0000#32
  tS := PosF32.ofPattern 0x3C83126F
  duration := 376#32
  rpsOn := Config.rpsOn
  maxc := 255#32
  ocrW := 8
  outMin := 0x00000000#32
  outMax := 0x42C80000#32
  kp := Config.kp
  kd := Config.kd
  kiPeriod := Config.kiPeriod
  cmdMask := 0x7F#8
  dirtab := DirTab.default

/-- `lo <= x <= hi` for finite numbers. -/
def f32Within (lo hi x : F32) : Bool :=
  f32IsFinite lo && f32IsFinite hi && f32IsFinite x && !flt x lo && !fgt x hi

/-- A well-formed configuration (00_scope.md R9). That `F_CLK`, `PPR`, `RPS_MAX`, `RPS_ON` and `T_S` are finite
and greater than zero holds by their type. `DIRTAB` is not checked, since R9 puts no condition on it. DESIGN CHOICE,
safe: log entry 21. -/
def Cfg.wellFormed (c : Cfg) : Bool :=
  c.hwW == 16 && c.rollW == 16 && c.tickW == 32
    && f32Within f32Zero f32One c.alpha
    && (f32IsFinite c.tMin && flt f32Zero c.tMin && flt c.tMin f32One)
    && decide (1 ≤ c.duration.toNat)
    && decide (1 ≤ c.maxc.toNat) && decide (c.maxc.toNat ≤ 2 ^ c.ocrW - 1)
    && (f32Within f32Zero f32Hundred c.outMin && f32Within c.outMin f32Hundred c.outMax)

/-! ### The collaborator -/

/-- The states of a collaborator that calls keeping the contract lead to (43_pi_loop.md R143): from `PI.init` under
the configuration's own parameters (R142), by `PI.advance` with a finite period greater than zero and a finite
error, and by `PI.clear` (R144). -/
inductive PiReachable (c : Collaborator) (cfg : Cfg) : PiState → Prop where
  | init : PiReachable c cfg (c.init cfg.kp cfg.kd cfg.kiPeriod cfg.outMin cfg.outMax)
  | advance {s : PiState} (period : PosF32) {err : F32} :
      PiReachable c cfg s → f32IsFinite err = true → PiReachable c cfg (c.advance s period.bits err).1
  | clear {s : PiState} : PiReachable c cfg s → PiReachable c cfg (c.clear s)

/-- Law (L-adv) of 43_pi_loop.md R143: in every reachable state, for every finite period greater than zero and every
finite error, the output is a finite binary32 within `OUT_MIN` and `OUT_MAX`. Of every other state, and of an error
that is no finite number, the law says nothing. That it holds of a cleared state is the part of (L-clr) the core
relies on (R144). -/
def Collaborator.Lawful (c : Collaborator) (cfg : Cfg) : Prop :=
  ∀ (s : PiState) (period : PosF32) (err : F32), PiReachable c cfg s → f32IsFinite err = true →
    f32Within cfg.outMin cfg.outMax (c.advance s period.bits err).2 = true

/-- The lower bound of the output lies within the bounds. -/
theorem Cfg.outMin_within {cfg : Cfg} (h : cfg.wellFormed = true) :
    f32Within cfg.outMin cfg.outMax cfg.outMin = true := by
  simp only [Cfg.wellFormed, f32Within, Bool.and_eq_true, Bool.not_eq_true'] at h ⊢
  obtain ⟨-, -, ⟨⟨⟨hmin, -⟩, hmax⟩, hle⟩, -⟩ := h
  simp_all [flt, fgt]

/-- The collaborator that always answers the lower bound it was given: the type of lawful ones is inhabited. -/
def Collaborator.constant : Collaborator where
  init := fun _ _ _ lo _ => ⟨[lo]⟩
  advance := fun s _ _ => (s, s.words.headD 0#32)
  clear := fun s => s

/-- The constant collaborator keeps the law under every well-formed configuration. -/
theorem Collaborator.constant_lawful {cfg : Cfg} (h : cfg.wellFormed = true) : Collaborator.constant.Lawful cfg := by
  intro s period err hs _
  have e : s = ⟨[cfg.outMin]⟩ := by
    induction hs with
    | init => rfl
    | advance _ _ _ ih => exact ih
    | clear _ ih => exact ih
  rw [e]
  exact Cfg.outMin_within h

/-- A legal `PI` of a configuration. A collaborator that breaks the law is "outside this spec" and refused
(43_pi_loop.md R143, 93_implementation_defined.md U6): it is no value of this type. -/
structure LawfulCollaborator (cfg : Cfg) where
  /-- The three functions. -/
  functions : Collaborator := Collaborator.constant
  /-- Law (L-adv). -/
  lawful : cfg.wellFormed = true → functions.Lawful cfg := by exact Collaborator.constant_lawful
deriving Inhabited

/-- `PI`: OPEN, external to the core (00_scope.md R5, R8; 43_pi_loop.md R141): some legal collaborator of the
configuration. DESIGN CHOICE, safe: log entry 6. -/
opaque Config.collaborator : (cfg : Cfg) → LawfulCollaborator cfg

/-- The parameter `PI` of a configuration (00_scope.md R8). -/
def Cfg.pi (cfg : Cfg) : Collaborator := (Config.collaborator cfg).functions

end Sys2Proof
end

