-- ==== Sys2Proof/Machine/State.lean ====
section
/-!
DEFINITION. The state of the core as plain data: every register of 10_state.md R21 to R38, the read-only
configuration registers (R40), and the model's own two fields for the ports (20_memory.md R61, R62); the
reasons a step can stop; the state after reset (R44).
-/

namespace Sys2Proof.Machine

open Sys2Proof

/-- The two motors (10_state.md R20). -/
inductive MotorId where
  | m0 | m1
deriving DecidableEq, Repr

/-- The registers each motor has a copy of. -/
structure MotorRegs where
  /-- `RAW_TICK[m]` (10_state.md R22). -/
  rawTick : Tick
  /-- `BUF_TICK[m]` (R23). -/
  bufTick : Tick
  /-- `MEAS_READY[m]` (R30). -/
  measReady : Bool
  /-- `FRPS[m]`, a binary32 (R24). -/
  frps : F32
  /-- `SETPOINT[m]`, a binary32 (R25). -/
  setpoint : F32
  /-- `PICTL[m]`, the collaborator's state (R36). -/
  pictl : PiState
  /-- `OCR[m]`, a plain unsigned number of `OCR_W` bits (R37, 30_encoding.md R91). -/
  ocr : Nat
deriving DecidableEq, Repr

/-- An output action of a step: `PWM_CLR` is the only one (10_state.md R39). -/
inductive OutAction where
  | pwmClr
deriving DecidableEq, Repr

/-- The state of the core. -/
structure State where
  /-- `ROLL` (10_state.md R21). -/
  roll : Half
  /-- Motor 0's registers. -/
  motor0 : MotorRegs
  /-- Motor 1's registers. -/
  motor1 : MotorRegs
  /-- `DIR` (R38). -/
  dir : Dir
  /-- `ELAPSED` (R26). -/
  elapsed : BitVec 32
  /-- `PENDING` (R27): the spec's own option, an empty or a full slot. -/
  pending : Option Byte
  /-- `CMD_READY` (R32). -/
  cmdReady : Bool
  /-- `TICK_READY` (R31). -/
  tickReady : Bool
  /-- `RUNNING` (R33): false is Idle, true is Running. -/
  running : Bool
  /-- `PHASE` (R29). -/
  phase : BitVec 3
  /-- `HALTED` (R34). -/
  halted : Bool
  /-- `HCAUSE` (R35). -/
  hcause : BitVec 2
  /-- The configuration registers (R40): read by the operations, written by none (log entry 3). -/
  cfg : Cfg
  /-- The output actions of the step last taken (R39; log entry 2). The model's own field. -/
  emitted : List OutAction
  /-- The event words the environment will present on the event port, the next one first
  (20_memory.md R61; log entry 1). The model's own field. -/
  port : List EventWord
deriving DecidableEq, Repr

/-- What stops the machine with a fault: nothing does. The core's one fault mechanism, the fatal halt, is an
exception the model takes: a next state with `HALTED` = 1 (60_exceptions.md R212; log entry 12). -/
inductive Fault where
deriving DecidableEq, Repr

/-- Why a step has no meaning. -/
inductive Refusal where
  /-- Raised by exec for an instruction that has no meaning yet; no arm does. Safe. -/
  | notModelled (mnemonic : String)
  /-- Raised by step when the configuration is not well formed: "the model refuses a configuration that is not
  (it gives it no meaning)" (00_scope.md R9, 93_implementation_defined.md U5; log entry 4). Safe. -/
  | illFormedConfiguration
  /-- Raised by STEP when `PHASE` is 5, 6 or 7, values that "never occur" (10_state.md R29,
  93_implementation_defined.md U16; log entry 11). Safe. -/
  | phaseOutOfRange
  /-- Raised by PARSE when `CMD_READY` is 1 and `PENDING` is `None`, which 10_state.md R43 (I-a) excludes
  (93_implementation_defined.md U16; log entry 11). Safe. -/
  | slotDisagrees
deriving DecidableEq, Repr

/-- The registers of one motor at reset (10_state.md R44). -/
def MotorRegs.atReset (c : Collaborator) (cfg : Cfg) : MotorRegs where
  rawTick := 0#32
  bufTick := 0#32
  measReady := false
  frps := f32Zero
  setpoint := f32Zero
  pictl := c.init cfg.kp cfg.kd cfg.kiPeriod cfg.outMin cfg.outMax
  ocr := cfg.maxc.toNat

/-- Every register at its reset value (10_state.md R44) under a collaborator and a configuration, with nothing
presented on the event port. -/
def State.atReset (c : Collaborator) (cfg : Cfg) : State where
  roll := 0#16
  motor0 := MotorRegs.atReset c cfg
  motor1 := MotorRegs.atReset c cfg
  dir := 0b0000#4
  elapsed := 0#32
  pending := none
  cmdReady := false
  tickReady := false
  running := false
  phase := 0#3
  halted := false
  hcause := 0#2
  cfg := cfg
  emitted := []
  port := []

/-- The machine right after reset (10_state.md R44, 70_reset_and_hazards.md R240), with the default configuration. -/
def State.reset : State := State.atReset Cfg.default.pi Cfg.default

end Sys2Proof.Machine
end

