-- ==== Sys2Proof/Machine/Ops.lean ====
section
/-!
DEFINITION. The named operations over the registers that the meanings share: reading and updating one motor's
registers, the gate of a halted core, the fatal halt (the core's one exception) and reset (the only way out of
it), the phase counter, output actions, and what the output port shows.
-/

namespace Sys2Proof.Machine

open Sys2Proof

/-- What a meaning answers. -/
abbrev Result := Host.Outcome State Fault Refusal

/-- A result with a function applied to the state it goes on with. -/
def Result.mapNext (r : Result) (f : State → State) : Result :=
  match r with
  | .next s => .next (f s)
  | .fault x => .fault x
  | .refused x => .refused x

/-! ### One motor's registers -/

/-- The registers of motor `m`. -/
def State.motor (s : State) (m : MotorId) : MotorRegs :=
  match m with
  | .m0 => s.motor0
  | .m1 => s.motor1

/-- The state with the registers of motor `m` changed by `f`, and nothing else. -/
def State.updMotor (s : State) (m : MotorId) (f : MotorRegs → MotorRegs) : State :=
  match m with
  | .m0 => { s with motor0 := f s.motor0 }
  | .m1 => { s with motor1 := f s.motor1 }

/-- The state with both motors changed, motor 0 first (43_pi_loop.md R145). -/
def State.updMotors (s : State) (f : MotorRegs → MotorRegs) : State :=
  (s.updMotor .m0 f).updMotor .m1 f

/-- The integer `z` written to a compare register of `OCR_W` bits. Within the register's range it is what the
register then holds; outside it the spec states no value, and the register holds a free one (log entry 9). -/
def compareWrite (cfg : Cfg) (z : Int) : Nat :=
  if 0 ≤ z ∧ z < (2 ^ cfg.ocrW : Nat) then z.toNat else Config.freeCompare z % 2 ^ cfg.ocrW

/-! ### The halt -/

/-- The gate of 45_scheduler.md R196: while `HALTED` = 1 an operation has no effect. -/
def whenLive (s : State) (k : State → Result) : Result :=
  if s.halted then .next s else k s

/-- The causes of a fatal halt (60_exceptions.md R211). `invalidReference` has a name and is never raised. -/
inductive FatalCause where
  | invalidReference
  | reservedEvent
deriving DecidableEq, Repr

/-- The code of a cause in `HCAUSE` (60_exceptions.md R211). -/
def FatalCause.code (c : FatalCause) : BitVec 2 :=
  match c with
  | .invalidReference => 1#2
  | .reservedEvent => 2#2

/-- `raise Fatal(cause)` (60_exceptions.md R212): taking the core's one exception. No register is saved, `PHASE`
keeps its value, no action is emitted. -/
def raiseFatal (cause : FatalCause) (s : State) : State :=
  { s with halted := true, hcause := cause.code }

/-- Reset (45_scheduler.md R194), the only way out of the halt (60_exceptions.md R214): every register takes its
reset value; the configuration is not changed, no action is emitted, and the event port is the environment's. -/
def resetRegisters (c : Collaborator) (s : State) : State :=
  { State.atReset c s.cfg with emitted := s.emitted, port := s.port }

/-! ### Sequencing and output -/

/-- `PHASE <- (PHASE + 1) mod 5` (10_state.md R29). -/
def advancePhase (s : State) : State :=
  { s with phase := BitVec.ofNat 3 ((s.phase.toNat + 1) % 5) }

/-- `emit A`: appends an action to those of the current step (00_scope.md R12). -/
def emit (a : OutAction) (s : State) : State :=
  { s with emitted := s.emitted ++ [a] }

/-- What the output port carries (20_memory.md R62). -/
structure OutputPort where
  ocr0 : Nat
  ocr1 : Nat
  dir : Dir
  haltOut : Bool
  pwmClr : Bool
deriving DecidableEq, Repr

/-- The output port of a state: the levels it drives, and the strobe of the step that led to it (20_memory.md R62;
`HALT_OUT = HALTED`, 10_state.md R39). -/
def State.outputPort (s : State) : OutputPort where
  ocr0 := s.motor0.ocr
  ocr1 := s.motor1.ocr
  dir := s.dir
  haltOut := s.halted
  pwmClr := s.emitted.contains .pwmClr

end Sys2Proof.Machine
end

