-- ==== Sys2Proof/Machine/Flags.lean ====
section
/-!
DEFINITION. The handshake flags between the interrupt events and the scheduler (10_state.md R30 to R32,
20_memory.md R73): each is one bit, set by its event and cleared by the phase that does the work. The command
flag and the command slot are written together (10_state.md R43 (I-a)).
-/

namespace Sys2Proof.Machine

open Sys2Proof

/-- `MEAS_READY[m] <- 1` (41_encoder_capture.md R110). -/
def MotorRegs.raiseMeas (r : MotorRegs) : MotorRegs := { r with measReady := true }

/-- `MEAS_READY[m] <- 0` (42_rps_estimator.md R129). -/
def MotorRegs.clearMeas (r : MotorRegs) : MotorRegs := { r with measReady := false }

/-- `TICK_READY <- 1` (43_pi_loop.md R140). -/
def raiseTick (s : State) : State := { s with tickReady := true }

/-- `TICK_READY <- 0` (43_pi_loop.md R145). -/
def clearTick (s : State) : State := { s with tickReady := false }

/-- `PENDING <- Some(byte)`, `CMD_READY <- 1`: the writer always wins (44_command.md R160, 20_memory.md R74). -/
def fillSlot (byte : Byte) (s : State) : State :=
  { s with pending := some byte, cmdReady := true }

/-- `PENDING <- None`, `CMD_READY <- 0` (44_command.md R161, R171). -/
def emptySlot (s : State) : State :=
  { s with pending := none, cmdReady := false }

end Sys2Proof.Machine
end

