-- ==== Sys2Proof/Syntax.lean ====
section
/-!
DEFINITION. The operations of the core, one constructor per row of spec/opcode_table.json:
eight operations selected by the event code, eight reserved event codes, the five scheduler phases
that `STEP` selects through `PHASE`, and the six classes of a command byte (30_encoding.md R80,
R82, R84, R86, R88).
-/

namespace Sys2Proof

/-- One operation of the core, with its operand where it has one. -/
inductive Instr where
  /-- `IDLE`, op 0x0 (45_scheduler.md R193). -/
  | idle
  /-- `OVF`, op 0x1 (40_tick_extender.md R100). -/
  | ovf
  /-- `EDGE0 hw`, op 0x2 (41_encoder_capture.md R111). -/
  | edge0 (hw : Half)
  /-- `EDGE1 hw`, op 0x3 (41_encoder_capture.md R112). -/
  | edge1 (hw : Half)
  /-- `SAMPLE`, op 0x4 (43_pi_loop.md R140). -/
  | sample
  /-- `RX byte`, op 0x5 (44_command.md R160). -/
  | rx (byte : Byte)
  /-- `STEP`, op 0x6 (45_scheduler.md R190). -/
  | step
  /-- `RPS0`: the phase operation of `PHASE` = 0 (42_rps_estimator.md R121). -/
  | rps0
  /-- `RPS1`: the phase operation of `PHASE` = 1 (42_rps_estimator.md R122). -/
  | rps1
  /-- `PI`: the phase operation of `PHASE` = 2 (43_pi_loop.md R145). -/
  | pi
  /-- `PARSE`: the phase operation of `PHASE` = 3 (44_command.md R161). -/
  | parse
  /-- `DONE`: the phase operation of `PHASE` = 4 (44_command.md R171). -/
  | done
  /-- Reserved op 0x7 (45_scheduler.md R195). -/
  | reserved7
  /-- Reserved op 0x8 (45_scheduler.md R195). -/
  | reserved8
  /-- Reserved op 0x9 (45_scheduler.md R195). -/
  | reserved9
  /-- Reserved op 0xA (45_scheduler.md R195). -/
  | reservedA
  /-- Reserved op 0xB (45_scheduler.md R195). -/
  | reservedB
  /-- Reserved op 0xC (45_scheduler.md R195). -/
  | reservedC
  /-- Reserved op 0xD (45_scheduler.md R195). -/
  | reservedD
  /-- Reserved op 0xE (45_scheduler.md R195). -/
  | reservedE
  /-- `RESET`, op 0xF (45_scheduler.md R194). -/
  | reset
  /-- Command class `FORWARD`, code 0x77 (44_command.md R163). -/
  | forward
  /-- Command class `BACKWARD`, code 0x73 (44_command.md R164). -/
  | backward
  /-- Command class `LEFT`, code 0x61 (44_command.md R165). -/
  | left
  /-- Command class `RIGHT`, code 0x64 (44_command.md R166). -/
  | right
  /-- Command class `STOP`, code 0x78 (44_command.md R167). -/
  | stop
  /-- Command class `UNKNOWN`, with the 7-bit code it came from (44_command.md R168). -/
  | unknown (code : Code)
deriving DecidableEq, Repr

end Sys2Proof
end

