-- ==== Sys2Proof/Decode.lean ====
section
/-!
DEFINITION. The decoder and, after it, the encoder (30_encoding.md R81 to R90).

An operation is read from one of three things: an event word alone; a `STEP` word together with the
phase it selects (R84: "the only context the decoder uses is `PHASE`, for `STEP`", R90); or a
command byte (R85). Decoding is total: what is none of these is rejected by name.
-/

namespace Sys2Proof

/-! ### Event words -/

/-- `EV[19:16]`, the event code (R81). -/
def EventWord.op (ev : EventWord) : BitVec 4 := ev.extractLsb' 16 4

/-- `EV[15:0]`, the operand (R81). -/
def EventWord.data (ev : EventWord) : Half := ev.extractLsb' 0 16

/-- The operation an event word selects (R82, R88). Bits of `data` an operation does not use are
ignored. All sixteen codes have a row, so no event word is rejected. -/
def decodeEvent (ev : EventWord) : Instr :=
  match ev.op with
  | 0x0#4 => .idle
  | 0x1#4 => .ovf
  | 0x2#4 => .edge0 ev.data
  | 0x3#4 => .edge1 ev.data
  | 0x4#4 => .sample
  | 0x5#4 => .rx (ev.data.setWidth 8)
  | 0x6#4 => .step
  | 0x7#4 => .reserved7
  | 0x8#4 => .reserved8
  | 0x9#4 => .reserved9
  | 0xA#4 => .reservedA
  | 0xB#4 => .reservedB
  | 0xC#4 => .reservedC
  | 0xD#4 => .reservedD
  | 0xE#4 => .reservedE
  | _ => .reset -- 0xF, the one code left

/-- The phase operation a phase number names; 5, 6 and 7 name none (R84, 10_state.md R29). -/
def phaseInstr (phase : BitVec 3) : Option Instr :=
  match phase with
  | 0#3 => some .rps0
  | 1#3 => some .rps1
  | 2#3 => some .pi
  | 3#3 => some .parse
  | 4#3 => some .done
  | _ => none

/-! ### Command bytes -/

/-- The six command classes (R86). -/
inductive CommandClass where
  | forward | backward | left | right | stop | unknown
deriving DecidableEq, Repr

/-- `classify(code)` (R86, 44_command.md R162): five codes are recognised, every other one is `UNKNOWN`. -/
def classify (code : Code) : CommandClass :=
  if code = 0x77#7 then .forward
  else if code = 0x73#7 then .backward
  else if code = 0x61#7 then .left
  else if code = 0x64#7 then .right
  else if code = 0x78#7 then .stop
  else .unknown

/-- The operation of a class; `UNKNOWN` keeps the code it came from. -/
def CommandClass.instr (cls : CommandClass) (code : Code) : Instr :=
  match cls with
  | .forward => .forward
  | .backward => .backward
  | .left => .left
  | .right => .right
  | .stop => .stop
  | .unknown => .unknown code

/-- The class of a command byte under the format's mask `0x7F`: bit 7 is not part of the command (R85). -/
def decodeCommand (byte : Byte) : Instr :=
  (classify (byte.setWidth 7)).instr (byte.setWidth 7)

/-! ### The whole decoder -/

/-- What an operation is read from. -/
inductive Encoded where
  /-- An event word on the event port (R81). -/
  | event (ev : EventWord)
  /-- An event word read in the context of a scheduler phase (R84). -/
  | phased (ev : EventWord) (phase : BitVec 3)
  /-- A command byte (R85). -/
  | command (byte : Byte)
deriving DecidableEq, Repr

/-- Why something is no encoding of an operation. -/
inductive DecodeError where
  /-- A word with bits set above the 20 of an event word (R81: "no operation has any other length"). -/
  | bitsAboveEventWord (w : Nat)
  /-- A word with bits set above the 8 of a command byte (R85). -/
  | bitsAboveCommandByte (w : Nat)
  /-- A phase operation is read from a `STEP` word only (R84). -/
  | notAStepWord (ev : EventWord)
  /-- No operation has the phase number 5, 6 or 7 (10_state.md R29). -/
  | noSuchPhase (phase : BitVec 3)
deriving DecidableEq, Repr

/-- The decoder, total on everything an operation could be read from. -/
def decode (e : Encoded) : Except DecodeError Instr :=
  match e with
  | .event ev => .ok (decodeEvent ev)
  | .phased ev phase =>
    if ev.op = 0x6#4 then
      match phaseInstr phase with
      | some i => .ok i
      | none => .error (.noSuchPhase phase)
    else .error (.notAStepWord ev)
  | .command byte => .ok (decodeCommand byte)

/-- Reads a number of at most eight bits as a command byte and a longer one as an event word: the two
formats of the core, `CMD` of 8 bits and `EVT` of 20 (R81, R85). -/
def decodeBits (nbits w : Nat) : Except DecodeError Instr :=
  if nbits ≤ 8 then
    if w < 2 ^ 8 then decode (.command (BitVec.ofNat 8 w)) else .error (.bitsAboveCommandByte w)
  else
    if w < 2 ^ 20 then decode (.event (BitVec.ofNat 20 w)) else .error (.bitsAboveEventWord w)

/-- The instruction the decoder reads from an instruction whose bits are `w`. The five phase
operations have no word of their own: their rows carry the `STEP` word, which alone decodes to
`STEP` (R84: the phase comes "not by any bit of `EV`"). -/
def decodeTableWord (nbits w : Nat) : Option Instr :=
  (decodeBits nbits w).toOption

/-! ### The encoder -/

/-- An event word from its code and operand (R81). -/
def EventWord.make (op : BitVec 4) (data : Half) : EventWord :=
  (op.setWidth 20 <<< 16) ||| data.setWidth 20

/-- The words of an operation, ignored bits written as 0 (R82, R84, R86, R92). -/
def encode (i : Instr) : Encoded :=
  match i with
  | .idle => .event (EventWord.make 0x0#4 0#16)
  | .ovf => .event (EventWord.make 0x1#4 0#16)
  | .edge0 hw => .event (EventWord.make 0x2#4 hw)
  | .edge1 hw => .event (EventWord.make 0x3#4 hw)
  | .sample => .event (EventWord.make 0x4#4 0#16)
  | .rx byte => .event (EventWord.make 0x5#4 (byte.setWidth 16))
  | .step => .event (EventWord.make 0x6#4 0#16)
  | .rps0 => .phased (EventWord.make 0x6#4 0#16) 0#3
  | .rps1 => .phased (EventWord.make 0x6#4 0#16) 1#3
  | .pi => .phased (EventWord.make 0x6#4 0#16) 2#3
  | .parse => .phased (EventWord.make 0x6#4 0#16) 3#3
  | .done => .phased (EventWord.make 0x6#4 0#16) 4#3
  | .reserved7 => .event (EventWord.make 0x7#4 0#16)
  | .reserved8 => .event (EventWord.make 0x8#4 0#16)
  | .reserved9 => .event (EventWord.make 0x9#4 0#16)
  | .reservedA => .event (EventWord.make 0xA#4 0#16)
  | .reservedB => .event (EventWord.make 0xB#4 0#16)
  | .reservedC => .event (EventWord.make 0xC#4 0#16)
  | .reservedD => .event (EventWord.make 0xD#4 0#16)
  | .reservedE => .event (EventWord.make 0xE#4 0#16)
  | .reset => .event (EventWord.make 0xF#4 0#16)
  | .forward => .command 0x77#8
  | .backward => .command 0x73#8
  | .left => .command 0x61#8
  | .right => .command 0x64#8
  | .stop => .command 0x78#8
  | .unknown code => .command (code.setWidth 8)

end Sys2Proof
end

