-- ==== Sys2Proof/Machine/Operands.lean ====
section
/-!
DEFINITION. Where operands are assembled from bits (30_encoding.md R87) and the direction table is read
(44_command.md R170).
-/

namespace Sys2Proof.Machine

open Sys2Proof

/-- `tickpos(ROLL, hw) = ROLL ++ hw`: `tick[31:16] = ROLL`, `tick[15:0] = hw` (R87 (a), 40_tick_extender.md R101). -/
def tickpos (roll hw : Half) : Tick := roll ++ hw

/-- `code`: the seven low bits of the stored byte under `CMD_MASK` (R87 (b), 00_scope.md R8; log entry 10 for a
mask other than `0x7F`). -/
def commandCode (cfg : Cfg) (byte : Byte) : Code := (byte &&& cfg.cmdMask).setWidth 7

/-- `DIRTAB(cls)` for a recognised class; `UNKNOWN` has no entry (44_command.md R168, R170). -/
def directionOf (t : DirTab) (cls : CommandClass) : Option Dir :=
  match cls with
  | .forward => some t.forward
  | .backward => some t.backward
  | .left => some t.left
  | .right => some t.right
  | .stop => some t.stop
  | .unknown => none

end Sys2Proof.Machine
end

