-- ==== Sys2Proof/Machine/Command.lean ====
section
/-!
DEFINITION. The Command Dispatcher: `RX`, `PARSE`, `DONE` and the six command classes
(44_command.md R160 to R175).
-/

namespace Sys2Proof.Machine

open Sys2Proof

/-- `RX byte` (R160): the byte is stored as received, whatever `RUNNING` and the slot hold. -/
def execRx (byte : Byte) (s : State) : Result :=
  whenLive s fun s => .next (fillSlot byte s)

/-! ### Starting a command -/

/-- `SETPOINT[m] <- v` for one motor's registers. -/
def MotorRegs.setSetpoint (v : F32) (r : MotorRegs) : MotorRegs := { r with setpoint := v }

/-- `DIR <- DIRTAB(cls)`; `UNKNOWN` writes nothing (R161, R168). The entry is written whatever it holds. DESIGN CHOICE,
safe: log entry 21. -/
def writeDir (cls : CommandClass) (s : State) : State :=
  match directionOf s.cfg.dirtab cls with
  | some d => { s with dir := d }
  | none => s

/-- `ELAPSED <- 0`, `RUNNING <- 1` (R161). -/
def startTimer (s : State) : State := { s with elapsed := 0#32, running := true }

/-- What a class does when it is acted on: its direction, then the common part of R161. `TICK_READY` is not among the
registers R161 writes, so a tick raised since the last `PI` stays for the next one. DEDUCED, unsafe: log entry 22. -/
def startRun (cls : CommandClass) (s : State) : State :=
  emptySlot (startTimer ((writeDir cls s).updMotors (MotorRegs.setSetpoint s.cfg.rpsOn.bits)))

/-- A class is acted on only by a core that is neither halted nor Running (R161, R172, R175). -/
def whenIdle (s : State) (k : State → Result) : Result :=
  whenLive s fun s => if s.running then .next s else k s

/-- `FORWARD` (R163). -/
def execForward (s : State) : Result :=
  whenIdle s fun s => .next (startRun .forward s)

/-- `BACKWARD` (R164). -/
def execBackward (s : State) : Result :=
  whenIdle s fun s => .next (startRun .backward s)

/-- `LEFT` (R165). -/
def execLeft (s : State) : Result :=
  whenIdle s fun s => .next (startRun .left s)

/-- `RIGHT` (R166). -/
def execRight (s : State) : Result :=
  whenIdle s fun s => .next (startRun .right s)

/-- `STOP` (R167): a normal timed command like any other. -/
def execStop (s : State) : Result :=
  whenIdle s fun s => .next (startRun .stop s)

/-- `UNKNOWN` (R168): a full timed run with no direction output change. -/
def execUnknown (s : State) : Result :=
  whenIdle s fun s => .next (startRun .unknown s)

/-- Runs the operation of a class (R161). -/
def runClass (cls : CommandClass) (s : State) : Result :=
  match cls with
  | .forward => execForward s
  | .backward => execBackward s
  | .left => execLeft s
  | .right => execRight s
  | .stop => execStop s
  | .unknown => execUnknown s

/-- `PARSE` (R161): with a full slot and the core Idle, the class of the byte is run. -/
def execParse (s : State) : Result :=
  whenLive s fun s =>
    if s.cmdReady && !s.running then
      match s.pending with
      | some b => runClass (classify (commandCode s.cfg b)) s
      | none => .refused .slotDisagrees
    else .next s

/-! ### Ending a command -/

/-- What completion does to one motor's registers: setpoint 0, compare fully off, collaborator cleared (R171). -/
def MotorRegs.shutOff (c : Collaborator) (cfg : Cfg) (r : MotorRegs) : MotorRegs :=
  { r with setpoint := f32Zero, ocr := cfg.maxc.toNat, pictl := c.clear r.pictl }

/-- `RUNNING <- 0` (R171). -/
def stopRunning (s : State) : State := { s with running := false }

/-- The `DONE` operation under a collaborator (R171). R174 and 20_memory.md R71 add that the `DONE` of the pass of the
`PARSE` sees `ELAPSED = 0`; by the pseudocode a `SAMPLE` between the two (45_scheduler.md R192) is counted, so that with
`DURATION` = 1 this `DONE` completes the command, and the model follows the pseudocode. DEDUCED, unsafe: log entry 23. -/
def donePhase (c : Collaborator) (s : State) : State :=
  if s.running && decide (s.cfg.duration ≤ s.elapsed) then
    emptySlot (stopRunning (s.updMotors (MotorRegs.shutOff c s.cfg)))
  else s

/-- `DONE` (R171). -/
def execDone (s : State) : Result :=
  whenLive s fun s => .next (donePhase s.cfg.pi s)

end Sys2Proof.Machine
end

