-- ==== Sys2Proof/Machine/EncoderCapture.lean ====
section
/-!
DEFINITION. Encoder Capture: `EDGE0`, `EDGE1` (41_encoder_capture.md R110 to R112).
-/

namespace Sys2Proof.Machine

open Sys2Proof

/-- The latch shift of R110 for one motor's registers: the old latch becomes the previous one, then the new
tick position is latched. -/
def MotorRegs.latch (tick : Tick) (r : MotorRegs) : MotorRegs :=
  { r with bufTick := r.rawTick, rawTick := tick }

/-- `capture(m, hw)` (R110). -/
def capture (m : MotorId) (hw : Half) (s : State) : State :=
  s.updMotor m fun r => (r.latch (tickpos s.roll hw)).raiseMeas

/-- `EDGE0 hw` (R111). -/
def execEdge0 (hw : Half) (s : State) : Result :=
  whenLive s fun s => .next (capture .m0 hw s)

/-- `EDGE1 hw` (R112). -/
def execEdge1 (hw : Half) (s : State) : Result :=
  whenLive s fun s => .next (capture .m1 hw s)

end Sys2Proof.Machine
end

