-- ==== Sys2Proof/Machine/PiLoop.lean ====
section
/-!
DEFINITION. The PI Control Loop: `SAMPLE`, `PI` and the PWM mapping (43_pi_loop.md R140 to R150).
-/

namespace Sys2Proof.Machine

open Sys2Proof

/-- `ELAPSED <- (ELAPSED + 1) mod 2^32` while Running (R140), from the first `SAMPLE` after the `PARSE` on, one between
the `PARSE` and the `DONE` of the same pass included. DEDUCED, unsafe: log entry 23. -/
def countSample (s : State) : State :=
  if s.running then { s with elapsed := s.elapsed + 1#32 } else s

/-- `SAMPLE` (R140). -/
def execSample (s : State) : Result :=
  whenLive s fun s => .next (countSample (raiseTick s))

/-- `duty_to_compare(out)`: the three operations in the order written, then rounding (R146). -/
def dutyToCompare (cfg : Cfg) (out : F32) : Int :=
  let x := fsub f32Hundred out
  let y := fmul (u32ToF32 cfg.maxc) x
  let z := fdiv y f32Hundred
  roundHaz z

/-- The control update of one motor's registers: error, `PI.advance`, compare write (R145). -/
def MotorRegs.piUpdate (c : Collaborator) (cfg : Cfg) (r : MotorRegs) : MotorRegs :=
  let answer := c.advance r.pictl cfg.tS.bits (fsub r.setpoint r.frps)
  { r with pictl := answer.1, ocr := compareWrite cfg (dutyToCompare cfg answer.2) }

/-- The `PI` operation under a collaborator (R145): the flag is consumed even when Idle (R149); while Running
both motors are updated, motor 0 first, and then the PWM counter is cleared (R148). R149 adds that the first update
of a command waits for the first `SAMPLE` after its parse; by the pseudocode of R145 and R161 a `SAMPLE` that falls
after the `PI` and before the `PARSE` of an Idle pass is still there at the next `PI`, and the model follows the
pseudocode. DEDUCED, unsafe: log entry 22. -/
def piPhase (c : Collaborator) (s : State) : State :=
  if s.tickReady then
    let s := clearTick s
    if s.running then emit .pwmClr (s.updMotors (MotorRegs.piUpdate c s.cfg)) else s
  else s

/-- `PI` (R145). -/
def execPi (s : State) : Result :=
  whenLive s fun s => .next (piPhase s.cfg.pi s)

end Sys2Proof.Machine
end

