-- ==== Sys2Proof/Machine/RpsEstimator.lean ====
section
/-!
DEFINITION. The RPS Estimator: `RPS0`, `RPS1` (42_rps_estimator.md R120 to R129). The operations are the bodies
that `STEP` runs in phases 0 and 1; the advance of `PHASE` is `STEP`'s own (45_scheduler.md R190).
-/

namespace Sys2Proof.Machine

open Sys2Proof

/-- The interval `(RAW_TICK[m] - BUF_TICK[m]) mod 2^32` (R123). -/
def MotorRegs.ticks (r : MotorRegs) : BitVec 32 := r.rawTick - r.bufTick

/-- `raw_rps = F_CLK / (t * PPR)`, the product first (R126). -/
def rawSpeed (cfg : Cfg) (t : F32) : F32 := fdiv cfg.fClk.bits (fmul t cfg.ppr.bits)

/-- The exponential filter `ALPHA * FRPS + (1 - ALPHA) * raw_rps`, in the order of R128. -/
def filterSpeed (cfg : Cfg) (frps raw : F32) : F32 :=
  fadd (fmul cfg.alpha frps) (fmul (fsub f32One cfg.alpha) raw)

/-- The estimate after an interval of `ticks` ticks: kept on the two discard paths (R125, R127), else filtered (R128). -/
def nextEstimate (cfg : Cfg) (frps : F32) (ticks : BitVec 32) : F32 :=
  let t := u32ToF32 ticks
  if flt t cfg.tMin then frps
  else
    let raw := rawSpeed cfg t
    if fgt raw cfg.rpsMax.bits then frps
    else filterSpeed cfg frps raw

/-- The estimator's action on one motor's registers: nothing unless `MEAS_READY[m]`, which is cleared on all
three paths (R120, R129). -/
def MotorRegs.rpsUpdate (cfg : Cfg) (r : MotorRegs) : MotorRegs :=
  if r.measReady then { r with frps := nextEstimate cfg r.frps r.ticks }.clearMeas else r

/-- `rps_update(m)` (R120). -/
def rpsUpdate (m : MotorId) (s : State) : State :=
  s.updMotor m (MotorRegs.rpsUpdate s.cfg)

/-- `RPS0` (R121). -/
def execRps0 (s : State) : Result :=
  whenLive s fun s => .next (rpsUpdate .m0 s)

/-- `RPS1` (R122). -/
def execRps1 (s : State) : Result :=
  whenLive s fun s => .next (rpsUpdate .m1 s)

end Sys2Proof.Machine
end

