-- ==== Sys2Proof/Machine/TickExtender.lean ====
section
/-!
DEFINITION. The Tick Extender: `OVF` (40_tick_extender.md R100).
-/

namespace Sys2Proof.Machine

open Sys2Proof

/-- `ROLL <- (ROLL + 1) mod 2^16` (R100): silent at the wrap. -/
def bumpRoll (s : State) : State := { s with roll := s.roll + 1#16 }

/-- `OVF` (R100). -/
def execOvf (s : State) : Result :=
  whenLive s fun s => .next (bumpRoll s)

end Sys2Proof.Machine
end

