-- ==== Sys2Proof/Machine/Scheduler.lean ====
section
/-!
DEFINITION. The Scheduler and the operations of no component: `STEP`, `IDLE`, `RESET` and the eight reserved
event codes (45_scheduler.md R190 to R196).
-/

namespace Sys2Proof.Machine

open Sys2Proof

/-- The operation of the phase that `PHASE` names (30_encoding.md R84, 45_scheduler.md R190). -/
def runPhase (s : State) : Result :=
  match s.phase with
  | 0#3 => execRps0 s
  | 1#3 => execRps1 s
  | 2#3 => execPi s
  | 3#3 => execParse s
  | 4#3 => execDone s
  | _ => .refused .phaseOutOfRange

/-- `STEP` (R190): the phase operation and the advance of `PHASE`, one atomic step. -/
def execStep (s : State) : Result :=
  whenLive s fun s => (runPhase s).mapNext advancePhase

/-- `IDLE` (R193). -/
def execIdle (s : State) : Result := .next s

/-- `RESET` (R194): acts whatever `HALTED` is. -/
def execReset (s : State) : Result := .next (resetRegisters s.cfg.pi s)

/-- A reserved event code (R195). -/
def reservedEvent (s : State) : Result :=
  whenLive s fun s => .next (raiseFatal .reservedEvent s)

/-- `RESERVED_7` (R195). -/
def execReserved7 (s : State) : Result := reservedEvent s

/-- `RESERVED_8` (R195). -/
def execReserved8 (s : State) : Result := reservedEvent s

/-- `RESERVED_9` (R195). -/
def execReserved9 (s : State) : Result := reservedEvent s

/-- `RESERVED_A` (R195). -/
def execReservedA (s : State) : Result := reservedEvent s

/-- `RESERVED_B` (R195). -/
def execReservedB (s : State) : Result := reservedEvent s

/-- `RESERVED_C` (R195). -/
def execReservedC (s : State) : Result := reservedEvent s

/-- `RESERVED_D` (R195). -/
def execReservedD (s : State) : Result := reservedEvent s

/-- `RESERVED_E` (R195). -/
def execReservedE (s : State) : Result := reservedEvent s

end Sys2Proof.Machine
end

