-- ==== Sys2Proof/Machine/Dispatch.lean ====
section
/-!
DEFINITION. exec: one arm per operation, each one direct call of its meaning.
-/

namespace Sys2Proof.Machine

open Sys2Proof

/-- What an operation does to a state. -/
def exec (i : Instr) (s : State) : Host.Outcome State Fault Refusal :=
  match i with
  | .idle => Sys2Proof.Machine.execIdle s
  | .ovf => Sys2Proof.Machine.execOvf s
  | .edge0 hw => Sys2Proof.Machine.execEdge0 hw s
  | .edge1 hw => Sys2Proof.Machine.execEdge1 hw s
  | .sample => Sys2Proof.Machine.execSample s
  | .rx byte => Sys2Proof.Machine.execRx byte s
  | .step => Sys2Proof.Machine.execStep s
  | .rps0 => Sys2Proof.Machine.execRps0 s
  | .rps1 => Sys2Proof.Machine.execRps1 s
  | .pi => Sys2Proof.Machine.execPi s
  | .parse => Sys2Proof.Machine.execParse s
  | .done => Sys2Proof.Machine.execDone s
  | .reserved7 => Sys2Proof.Machine.execReserved7 s
  | .reserved8 => Sys2Proof.Machine.execReserved8 s
  | .reserved9 => Sys2Proof.Machine.execReserved9 s
  | .reservedA => Sys2Proof.Machine.execReservedA s
  | .reservedB => Sys2Proof.Machine.execReservedB s
  | .reservedC => Sys2Proof.Machine.execReservedC s
  | .reservedD => Sys2Proof.Machine.execReservedD s
  | .reservedE => Sys2Proof.Machine.execReservedE s
  | .reset => Sys2Proof.Machine.execReset s
  | .forward => Sys2Proof.Machine.execForward s
  | .backward => Sys2Proof.Machine.execBackward s
  | .left => Sys2Proof.Machine.execLeft s
  | .right => Sys2Proof.Machine.execRight s
  | .stop => Sys2Proof.Machine.execStop s
  | .unknown _ => Sys2Proof.Machine.execUnknown s

end Sys2Proof.Machine
end

