-- ==== Sys2Proof/Machine/Ports.lean ====
section
/-!
DEFINITION. The event port as the place a step takes its operation from (20_memory.md R61), and how an operation
is put where the next step finds it.
-/

namespace Sys2Proof.Machine

open Sys2Proof

/-- The word of `IDLE`, "no event in this step" (45_scheduler.md R193). -/
def idleWord : EventWord := 0x00000#20

/-- The word of `STEP` (30_encoding.md R92). -/
def stepWord : EventWord := 0x60000#20

/-- The event word on the port in this step: the next one the environment presents; with none left the port
carries `IDLE` (45_scheduler.md R193: "the event port carries some code in every step"). DESIGN CHOICE, unsafe:
log entry 1. -/
def fetchWord (s : State) : EventWord :=
  match s.port with
  | [] => idleWord
  | ev :: _ => ev

/-- The state an operation starts from: the word is taken from the port, and no action has been emitted in this
step (10_state.md R39). -/
def beginStep (s : State) : State :=
  { s with emitted := [], port := s.port.tail }

/-- The environment presents `ev` in the next step. -/
def presentEvent (ev : EventWord) (s : State) : State :=
  { s with port := ev :: s.port }

/-- Everything it takes for the next step to act on a command byte: the byte in the slot, a core that is Idle and
not halted, at the phase `PARSE`, and a `STEP` event on the port (44_command.md R161, 45_scheduler.md R190). -/
def presentCommand (byte : Byte) (s : State) : State :=
  { s with
    pending := some byte, cmdReady := true, running := false, halted := false, hcause := 0#2
    phase := 3#3, port := stepWord :: s.port }

end Sys2Proof.Machine
end

