-- ==== Sys2Proof/Machine/Step.lean ====
section
/-!
DEFINITION. One step of the core (00_scope.md R13): one operation, selected by the event word on the event port,
run to completion.
-/

namespace Sys2Proof.Machine

open Sys2Proof

/-- One step. A configuration that is not well formed has no meaning (00_scope.md R9; log entry 4). -/
def step (s : State) : Host.Outcome State Fault Refusal :=
  if s.cfg.wellFormed then exec (decodeEvent (fetchWord s)) (beginStep s)
  else .refused .illFormedConfiguration

/-- The state with an instruction placed where the next step takes its operation from: an event word on the event
port, or a command byte in the slot with all that `PARSE` needs to act on it (log entry 1). -/
def State.withFetchWord (s : State) (nbits w : Nat) : State :=
  if nbits ≤ 8 then presentCommand (BitVec.ofNat 8 w) s else presentEvent (BitVec.ofNat 20 w) s

end Sys2Proof.Machine
end

