-- ==== Sys2Proof/Machine/Environment.lean ====
section
/-!
DEFINITION. The reference timer environment (40_tick_extender.md R104) and the pseudo-operations of traces
(30_encoding.md R93), as functions that give event words. They are the spec's model of a well-behaved
environment and no part of the core: `T` is an argument here and no field of State.
-/

namespace Sys2Proof.Machine

open Sys2Proof

/-- The word of `OVF` (30_encoding.md R82, R92). -/
def ovfWord : EventWord := EventWord.make 0x1#4 0#16

/-- The word of `SAMPLE` (30_encoding.md R82, R92). -/
def sampleWord : EventWord := EventWord.make 0x4#4 0#16

/-- The word of `EDGE<m> hw` (30_encoding.md R82, R83). -/
def edgeWord (m : MotorId) (hw : Half) : EventWord :=
  match m with
  | .m0 => EventWord.make 0x2#4 hw
  | .m1 => EventWord.make 0x3#4 hw

/-- The word of `RX byte`, hence `CMD c` (30_encoding.md R82, R93). -/
def rxWord (byte : Byte) : EventWord := EventWord.make 0x5#4 (byte.setWidth 16)

/-- The events of one `TICK` at timer value `t`: `OVF` when the timer wraps, else none (40_tick_extender.md R104). -/
def tickEvents (t : Half) : List EventWord :=
  if t + 1#16 = 0#16 then [ovfWord] else []

/-- The timer after one `TICK` (R104). -/
def tickTimer (t : Half) : Half := t + 1#16

/-- The events of `ADV n`, that is of `n` ticks from timer value `t` (30_encoding.md R93). -/
def advEvents (n : Nat) (t : Half) : List EventWord :=
  match n with
  | 0 => []
  | k + 1 => tickEvents t ++ advEvents k (tickTimer t)

/-- The timer after `ADV n` (30_encoding.md R93). -/
def advTimer (n : Nat) (t : Half) : Half :=
  match n with
  | 0 => t
  | k + 1 => advTimer k (tickTimer t)

/-- The event of `PULSE m` at timer value `t` (40_tick_extender.md R104). -/
def pulseEvent (m : MotorId) (t : Half) : EventWord := edgeWord m t

/-- `PASS`: five `STEP` events (30_encoding.md R93). -/
def passEvents : List EventWord := List.replicate 5 stepWord

/-- `X *n`: a line repeated (30_encoding.md R93). -/
def repeatEvent (n : Nat) (ev : EventWord) : List EventWord := List.replicate n ev

end Sys2Proof.Machine
end

