-- ==== Sys2Proof/WellFormed.lean ====
section
/-!
DEFINITION. Which terms of `Instr` are operations of the core. Operands are of their exact width by
type; the one check left is that `UNKNOWN` carries a code that is none of the five recognised ones
(30_encoding.md R86, R89: each byte value falls in exactly one class).
-/

namespace Sys2Proof

/-- A well-formed operation (R86): one arm per constructor. -/
def Instr.wellFormed (i : Instr) : Bool :=
  match i with
  | .idle => true
  | .ovf => true
  | .edge0 _ => true
  | .edge1 _ => true
  | .sample => true
  | .rx _ => true
  | .step => true
  | .rps0 => true
  | .rps1 => true
  | .pi => true
  | .parse => true
  | .done => true
  | .reserved7 => true
  | .reserved8 => true
  | .reserved9 => true
  | .reservedA => true
  | .reservedB => true
  | .reservedC => true
  | .reservedD => true
  | .reservedE => true
  | .reset => true
  | .forward => true
  | .backward => true
  | .left => true
  | .right => true
  | .stop => true
  | .unknown code => classify code = .unknown

end Sys2Proof
end

