-- ==== Sys2Proof/Safety.lean ====
section
/-!
DEFINITION. The terms claims are stated in: a core that is not halted, the invariants of 10_state.md R43, and the
ranges of configurations for which the arithmetic of the spec stays within the finite numbers.
-/

namespace Sys2Proof.Machine

open Sys2Proof

/-- A state about which a positive claim may be made: a halted core is a fault state, "never final, never the
subject of a positive claim" (45_scheduler.md R196, 93_implementation_defined.md U8). -/
abbrev Live (s : State) : Prop := s.halted = false

/-- (I-a): `CMD_READY = 1` exactly when `PENDING` is `Some(b)` (10_state.md R43). -/
abbrev SlotAgrees (s : State) : Prop := s.cmdReady = s.pending.isSome

/-- (I-b): `PHASE <= 4` (10_state.md R43). -/
abbrev PhaseInRange (s : State) : Prop := s.phase.toNat ≤ 4

/-- (I-c): `OCR[m] <= MAXC` (10_state.md R43). -/
abbrev CompareInRange (s : State) : Prop :=
  s.motor0.ocr ≤ s.cfg.maxc.toNat ∧ s.motor1.ocr ≤ s.cfg.maxc.toNat

/-- A binary32 that is finite, not negative, and at most `bound` (in units of `2^-149`). -/
abbrev FiniteUpTo (bound : Nat) (x : F32) : Prop :=
  f32IsFinite x = true ∧ 0 ≤ f32Scaled x ∧ f32Scaled x ≤ (bound : Int)

/-- (I-d), with a bound that a step keeps: `FRPS[m]` is finite, not negative (10_state.md R43) and at most `2^65`. -/
abbrev EstimatesFinite (s : State) : Prop :=
  FiniteUpTo (2 ^ 65 * f32Unit) s.motor0.frps ∧ FiniteUpTo (2 ^ 65 * f32Unit) s.motor1.frps

/-- (I-e): both setpoints are equal, `RPS_ON` exactly when Running and `+0.0` else (10_state.md R43). -/
abbrev SetpointsFollowRunning (s : State) : Prop :=
  s.motor0.setpoint = (if s.running then s.cfg.rpsOn.bits else f32Zero) ∧
  s.motor1.setpoint = (if s.running then s.cfg.rpsOn.bits else f32Zero)

/-- (I-f): `HALTED = 1` exactly when `HCAUSE != 0` (10_state.md R43). -/
abbrev HaltHasCause (s : State) : Prop := s.halted = (s.hcause != 0#2)

/-- The four invariants of 10_state.md R43 that no arithmetic enters: (I-a), (I-b), (I-e), (I-f). -/
abbrev ControlInv (s : State) : Prop :=
  SlotAgrees s ∧ PhaseInRange s ∧ SetpointsFollowRunning s ∧ HaltHasCause s

/-- Both collaborator states are among those that calls keeping the contract lead to (43_pi_loop.md R143). -/
abbrev CollaboratorsReachable (s : State) : Prop :=
  PiReachable s.cfg.pi s.cfg s.motor0.pictl ∧ PiReachable s.cfg.pi s.cfg s.motor1.pictl

/-- Direction outputs without the code `11`, which "is never written" (10_state.md R38). -/
abbrev LegalDir (d : Dir) : Prop := d.extractLsb' 0 2 ≠ 0b11#2 ∧ d.extractLsb' 2 2 ≠ 0b11#2

/-- Both compare registers are at `MAXC`, fully off, whenever the core is Idle (95_test_vectors.md section 5, item 3). -/
abbrev OffWhileIdle (s : State) : Prop :=
  s.running = false → s.motor0.ocr = s.cfg.maxc.toNat ∧ s.motor1.ocr = s.cfg.maxc.toNat

end Sys2Proof.Machine

namespace Sys2Proof

open Sys2Proof.Machine

/-- The operations that start a command: `PARSE` and the six classes it runs (44_command.md R161). -/
def Instr.startsCommand (i : Instr) : Bool :=
  match i with
  | .parse | .forward | .backward | .left | .right | .stop => true
  | .unknown _ => true
  | .idle | .ovf | .sample | .step | .rps0 | .rps1 | .pi | .done | .reset => false
  | .edge0 _ | .edge1 _ | .rx _ => false
  | .reserved7 | .reserved8 | .reserved9 | .reservedA => false
  | .reservedB | .reservedC | .reservedD | .reservedE => false

/-- The operation that runs when `i` is executed: `STEP` runs the one its phase names (30_encoding.md R84), every
other one runs itself. -/
def operationOf (i : Instr) (s : State) : Instr :=
  if i = .step then (phaseInstr s.phase).getD .step else i

/-- `r` is a finite binary32 and no finite binary32 is nearer to `num / den`; where another is as near, `r` has an
even last place: round to nearest, ties to even (00_scope.md R11). Values are in units of `2^-149`. -/
abbrev NearestEven (num den : Int) (r : F32) : Prop :=
  f32IsFinite r = true ∧ ∀ c : F32, f32IsFinite c = true →
    |f32Scaled r * den - num| ≤ |f32Scaled c * den - num| ∧
    (f32Scaled c ≠ f32Scaled r → |f32Scaled r * den - num| = |f32Scaled c * den - num| → r.toNat % 2 = 0)

/-- `num / den` units lies below the point from which rounding to nearest leaves the finite numbers. -/
abbrev BelowOverflow (num den : Int) : Prop := 2 * |num| < (2 ^ 25 - 1) * 2 ^ 253 * |den|

/-- A configuration whose speeds stay far inside the finite numbers: `F_CLK`, `RPS_MAX <= 2^64` and
`2^-32 <= PPR <= 2^64`. 42_rps_estimator.md R126 derives "no infinity" from R9 alone, which extreme values of
these parameters contradict (log entry 13). -/
abbrev Cfg.speedsOrdinary (c : Cfg) : Prop :=
  f32Scaled c.fClk.bits ≤ (2 ^ 64 * f32Unit : Nat) ∧ f32Scaled c.rpsMax.bits ≤ (2 ^ 64 * f32Unit : Nat) ∧
  (2 ^ 117 : Nat) ≤ f32Scaled c.ppr.bits ∧ f32Scaled c.ppr.bits ≤ (2 ^ 64 * f32Unit : Nat)

/-- A direction table none of whose entries holds the code `11` (10_state.md R38; log entry 21). -/
abbrev DirTab.Legal (t : DirTab) : Prop :=
  LegalDir t.forward ∧ LegalDir t.backward ∧ LegalDir t.left ∧ LegalDir t.right ∧ LegalDir t.stop

/-- A top value that 16 bits hold. 43_pi_loop.md R147 derives that the mapping stays within `0 .. MAXC`; that holds
while `100 * MAXC` is exact in binary32 (log entry 14). -/
abbrev Cfg.topOrdinary (c : Cfg) : Prop := c.maxc.toNat ≤ 0xFFFF

end Sys2Proof
end

