-- ==== Sys2Proof/Certificates/Slice0/Obligations.lean ====
section
/-!
DEFINITION. The statements for the provers, each a closed proposition about the model. The first group says what
each operation does, as the next state it answers; then what a step does, the encodings, whole-machine rules and
invariants, the arithmetic, and two claims about runs.

Two choices of the model reach every statement that quantifies widely. A statement about a step from every state takes
in the empty port, where a step is `IDLE` (log entry 1). A statement about exec of every operation takes in the command
classes by themselves, to which the rules give a meaning inside `PARSE` only (log entry 17). Both are DESIGN CHOICE.
-/

open Sys2Proof Sys2Proof.Machine

/-! ### What each operation does -/

/-- R193: `IDLE` changes nothing, halted or not. The event is the spec's own (D21). -/
def Obligations.IdleChangesNothing : Prop :=
  (∀ d : Half, decodeEvent (EventWord.make 0x0#4 d) = .idle) ∧
  ∀ s : State, exec .idle s = .next s

/-- R100: `OVF` adds one to `ROLL` modulo `2^16` and changes nothing else. -/
def Obligations.OvfIncrementsRollover : Prop :=
  (∀ d : Half, decodeEvent (EventWord.make 0x1#4 d) = .ovf) ∧
  (∀ s : State, s.halted = false →
    exec .ovf s = .next { s with roll := BitVec.ofNat 16 ((s.roll.toNat + 1) % 2 ^ 16) }) ∧
  (∀ s : State, s.halted = true → exec .ovf s = .next s)

/-- R110, R111, R112: a pulse edge shifts its own motor's latch pair, latches `(ROLL << 16) | zext_32(hw)`, raises
its flag, and changes nothing else. -/
def Obligations.EdgeLatchesTickPosition : Prop :=
  (∀ hw : Half, decodeEvent (EventWord.make 0x2#4 hw) = .edge0 hw ∧
    decodeEvent (EventWord.make 0x3#4 hw) = .edge1 hw) ∧
  (∀ (s : State) (hw : Half), s.halted = false →
    exec (.edge0 hw) s = .next { s with motor0 := { s.motor0 with
      bufTick := s.motor0.rawTick
      rawTick := (s.roll.setWidth 32 <<< 16) ||| hw.setWidth 32
      measReady := true } } ∧
    exec (.edge1 hw) s = .next { s with motor1 := { s.motor1 with
      bufTick := s.motor1.rawTick
      rawTick := (s.roll.setWidth 32 <<< 16) ||| hw.setWidth 32
      measReady := true } }) ∧
  (∀ (s : State) (hw : Half), s.halted = true → exec (.edge0 hw) s = .next s ∧ exec (.edge1 hw) s = .next s)

/-- R140: `SAMPLE` raises `TICK_READY` and counts the sample modulo `2^32` while Running. -/
def Obligations.SampleSetsTickAndCounts : Prop :=
  (∀ d : Half, decodeEvent (EventWord.make 0x4#4 d) = .sample) ∧
  (∀ s : State, s.halted = false → exec .sample s = .next { s with
    tickReady := true
    elapsed := if s.running then BitVec.ofNat 32 ((s.elapsed.toNat + 1) % 2 ^ 32) else s.elapsed }) ∧
  (∀ s : State, s.halted = true → exec .sample s = .next s)

/-- R160: `RX` stores all eight bits of the byte and raises `CMD_READY`, whatever `RUNNING` and the slot hold. -/
def Obligations.RxFillsTheSlot : Prop :=
  (∀ (x byte : Byte), decodeEvent (EventWord.make 0x5#4 (x ++ byte)) = .rx byte) ∧
  (∀ (s : State) (byte : Byte), s.halted = false →
    exec (.rx byte) s = .next { s with pending := some byte, cmdReady := true }) ∧
  (∀ (s : State) (byte : Byte), s.halted = true → exec (.rx byte) s = .next s)

/-- R120, R121, R122: the estimator's action on its own motor, the interval modulo `2^32` (R123), the raw speed
(R126), the two discard tests (R125, R127) and the filter (R128) in the order the rules write them; the flag is
cleared on all three paths (R129). `STEP` runs it in phases 0 and 1. -/
def Obligations.RpsUpdatesTheEstimate : Prop :=
  (∀ s : State, s.halted = false →
    let update := fun r : MotorRegs =>
      let ticks := (r.rawTick.toNat + (2 ^ 32 - r.bufTick.toNat)) % 2 ^ 32
      let t := u32ToF32 (BitVec.ofNat 32 ticks)
      let den := fmul t s.cfg.ppr.bits
      let raw := fdiv s.cfg.fClk.bits den
      let a := fmul s.cfg.alpha r.frps
      let b := fmul (fsub 0x3F800000#32 s.cfg.alpha) raw
      if r.measReady then
        { r with
          frps := if flt t s.cfg.tMin then r.frps else if fgt raw s.cfg.rpsMax.bits then r.frps else fadd a b
          measReady := false }
      else r
    exec .rps0 s = .next { s with motor0 := update s.motor0 } ∧
    exec .rps1 s = .next { s with motor1 := update s.motor1 }) ∧
  (∀ s : State, s.halted = false → s.phase = 0#3 →
    exec .step s = Result.mapNext (exec .rps0 s) fun t => { t with phase := 1#3 }) ∧
  (∀ s : State, s.halted = false → s.phase = 1#3 →
    exec .step s = Result.mapNext (exec .rps1 s) fun t => { t with phase := 2#3 }) ∧
  (∀ s : State, s.halted = true → exec .rps0 s = .next s ∧ exec .rps1 s = .next s)

/-- R145, R146: `PI` does nothing without `TICK_READY`; while Idle it only consumes the flag; while Running it
advances each motor's collaborator by the error, writes the mapped output to its compare register, and emits
`PWM_CLR` once. `STEP` runs it in phase 2. Consuming the flag while Idle is the spec's own reading (R149, D10). Two
things in the Running clause are the model's: the collaborator is an open constant of the configuration (log entry 6,
DESIGN CHOICE), and `compareWrite` leaves a free value where the mapped integer does not fit the register (log entry
9, DESIGN CHOICE). -/
def Obligations.PiUpdatesBothMotors : Prop :=
  (∀ s : State, s.halted = true ∨ s.tickReady = false → exec .pi s = .next s) ∧
  (∀ s : State, s.halted = false → s.phase = 2#3 →
    exec .step s = Result.mapNext (exec .pi s) fun t => { t with phase := 3#3 }) ∧
  (∀ s : State, s.halted = false → s.tickReady = true → s.running = false →
    exec .pi s = .next { s with tickReady := false }) ∧
  (∀ s : State, s.halted = false → s.tickReady = true → s.running = true →
    let answer := fun r : MotorRegs =>
      s.cfg.pi.advance r.pictl s.cfg.tS.bits (fsub r.setpoint r.frps)
    let compare := fun out : F32 =>
      compareWrite s.cfg
        (roundHaz (fdiv (fmul (u32ToF32 s.cfg.maxc) (fsub 0x42C80000#32 out)) 0x42C80000#32))
    exec .pi s = .next { s with
      tickReady := false
      motor0 := { s.motor0 with pictl := (answer s.motor0).1, ocr := compare (answer s.motor0).2 }
      motor1 := { s.motor1 with pictl := (answer s.motor1).1, ocr := compare (answer s.motor1).2 }
      emitted := s.emitted ++ [.pwmClr] })

/-- R161, R162: `PARSE` with a full slot on an Idle core starts the command of the byte; with an empty slot or
while Running it changes nothing. `STEP` runs it in phase 3. R161 and R162 write the code as `b & 0x7F`; that for any
`CMD_MASK` it is the low seven bits of the byte under the mask is the model's reading (log entry 10, DEDUCED), and
with the default `0x7F` the two are the same, as the last clause says. -/
def Obligations.ParseStartsACommand : Prop :=
  (∀ s : State, s.halted = true ∨ s.cmdReady = false ∨ s.running = true → exec .parse s = .next s) ∧
  (∀ s : State, s.halted = false → s.phase = 3#3 →
    exec .step s = Result.mapNext (exec .parse s) fun t => { t with phase := 4#3 }) ∧
  (∀ (s : State) (b : Byte), s.halted = false → s.cmdReady = true → s.running = false → s.pending = some b →
    let code : Code := (b &&& s.cfg.cmdMask).setWidth 7
    exec .parse s = .next { s with
      dir := if code = 0x77#7 then s.cfg.dirtab.forward
        else if code = 0x73#7 then s.cfg.dirtab.backward
        else if code = 0x61#7 then s.cfg.dirtab.left
        else if code = 0x64#7 then s.cfg.dirtab.right
        else if code = 0x78#7 then s.cfg.dirtab.stop
        else s.dir
      motor0 := { s.motor0 with setpoint := s.cfg.rpsOn.bits }
      motor1 := { s.motor1 with setpoint := s.cfg.rpsOn.bits }
      elapsed := 0#32
      running := true
      pending := none
      cmdReady := false }) ∧
  (∀ b : Byte, ((b &&& 0x7F#8).setWidth 7 : Code).toNat = b.toNat % 2 ^ 7)

/-- R163 to R168 with the common part of R161: the byte of each class, and on an Idle core the class writes its own
direction (`UNKNOWN` none) and starts the same timed run. The default direction values are the spec's own (R170,
D14). The rules give a class its meaning inside `PARSE` only; that exec of a class by itself does not look at the slot,
and does nothing on a halted or Running core, is the model's (log entry 17, DESIGN CHOICE). -/
def Obligations.CommandClassesStartTheTimedRun : Prop :=
  (decodeCommand 0x77#8 = .forward ∧ decodeCommand 0x73#8 = .backward ∧ decodeCommand 0x61#8 = .left ∧
    decodeCommand 0x64#8 = .right ∧ decodeCommand 0x78#8 = .stop ∧
    ∀ code : Code, code ∉ [0x77#7, 0x73#7, 0x61#7, 0x64#7, 0x78#7] →
      decodeCommand (code.setWidth 8) = .unknown code) ∧
  (Cfg.default.dirtab.forward = 0b0101#4 ∧ Cfg.default.dirtab.backward = 0b1010#4 ∧
    Cfg.default.dirtab.left = 0b0110#4 ∧ Cfg.default.dirtab.right = 0b1001#4 ∧
    Cfg.default.dirtab.stop = 0b0000#4) ∧
  (∀ s : State, s.halted = false → s.running = false →
    let run := fun d : Dir => { s with
      dir := d
      motor0 := { s.motor0 with setpoint := s.cfg.rpsOn.bits }
      motor1 := { s.motor1 with setpoint := s.cfg.rpsOn.bits }
      elapsed := 0#32
      running := true
      pending := none
      cmdReady := false }
    exec .forward s = .next (run s.cfg.dirtab.forward) ∧
    exec .backward s = .next (run s.cfg.dirtab.backward) ∧
    exec .left s = .next (run s.cfg.dirtab.left) ∧
    exec .right s = .next (run s.cfg.dirtab.right) ∧
    exec .stop s = .next (run s.cfg.dirtab.stop) ∧
    ∀ code : Code, exec (.unknown code) s = .next (run s.dir)) ∧
  (∀ s : State, s.halted = true ∨ s.running = true →
    exec .forward s = .next s ∧ exec .backward s = .next s ∧ exec .left s = .next s ∧
    exec .right s = .next s ∧ exec .stop s = .next s ∧ ∀ code : Code, exec (.unknown code) s = .next s)

/-- R171: `DONE` ends a running command whose samples have reached `DURATION`, and else changes nothing. `STEP` runs
it in phase 4. -/
def Obligations.DoneEndsACommand : Prop :=
  (∀ s : State, s.halted = false → s.phase = 4#3 →
    exec .step s = Result.mapNext (exec .done s) fun t => { t with phase := 0#3 }) ∧
  (∀ s : State, s.halted = true ∨ s.running = false ∨ s.elapsed.toNat < s.cfg.duration.toNat →
    exec .done s = .next s) ∧
  (∀ s : State, s.halted = false → s.running = true → s.cfg.duration.toNat ≤ s.elapsed.toNat →
    exec .done s = .next { s with
      motor0 := { s.motor0 with
        setpoint := 0x00000000#32, ocr := s.cfg.maxc.toNat, pictl := s.cfg.pi.clear s.motor0.pictl }
      motor1 := { s.motor1 with
        setpoint := 0x00000000#32, ocr := s.cfg.maxc.toNat, pictl := s.cfg.pi.clear s.motor1.pictl }
      running := false
      pending := none
      cmdReady := false })

/-- R190: `STEP` runs the operation that `PHASE` selects and then sets `PHASE` to the next number modulo 5. One phase
per event is the spec's own granularity (D4). -/
def Obligations.StepRunsThePhaseOperation : Prop :=
  (∀ d : Half, decodeEvent (EventWord.make 0x6#4 d) = .step) ∧
  (∀ (s : State) (p : Nat) (i : Instr), s.halted = false → s.phase.toNat = p →
    (p, i) ∈ [(0, Instr.rps0), (1, .rps1), (2, .pi), (3, .parse), (4, .done)] →
    exec .step s = Result.mapNext (exec i s) fun t => { t with phase := BitVec.ofNat 3 ((p + 1) % 5) }) ∧
  (∀ s : State, s.halted = true → exec .step s = .next s)

/-- R190, R29: in every state that meets the invariants (I-a) and (I-b) a live core's `STEP` completes, and `PHASE`
becomes `(PHASE + 1) mod 5`. -/
def Obligations.StepAdvancesThePhase : Prop :=
  ∀ s : State, s.halted = false → SlotAgrees s → PhaseInRange s →
    ∃ t, exec .step s = .next t ∧ t.phase.toNat = (s.phase.toNat + 1) % 5

/-- R195: a reserved event code sets `HALTED` and `HCAUSE` = 2 and changes nothing else; while halted it does
nothing. Taking a reserved code as the fatal error is the spec's own (D19). -/
def Obligations.ReservedCodesHaltTheCore : Prop :=
  let reserved : List Instr := [.reserved7, .reserved8, .reserved9, .reservedA, .reservedB, .reservedC, .reservedD,
    .reservedE]
  (∀ (n : Nat) (d : Half), 7 ≤ n → n ≤ 14 → decodeEvent (EventWord.make (BitVec.ofNat 4 n) d) ∈ reserved) ∧
  (∀ i ∈ reserved, ∀ s : State, s.halted = false →
    exec i s = .next { s with halted := true, hcause := 2#2 }) ∧
  (∀ i ∈ reserved, ∀ s : State, s.halted = true → exec i s = .next s)

/-- R194, R44: `RESET` puts every register at its reset value in any state, halted or not, keeps the configuration,
and emits nothing. The reset values are the spec's own (R44, D17); that the list of words on the event port is a
field of State and keeps its words is the model's (log entry 1, DESIGN CHOICE). -/
def Obligations.ResetRestoresEveryRegister : Prop :=
  (∀ d : Half, decodeEvent (EventWord.make 0xF#4 d) = .reset) ∧
  ∀ s : State,
    let motor : MotorRegs := {
      rawTick := 0x00000000#32, bufTick := 0x00000000#32, measReady := false
      frps := 0x00000000#32, setpoint := 0x00000000#32
      pictl := s.cfg.pi.init s.cfg.kp s.cfg.kd s.cfg.kiPeriod s.cfg.outMin s.cfg.outMax
      ocr := s.cfg.maxc.toNat }
    exec .reset s = .next {
      roll := 0x0000#16, motor0 := motor, motor1 := motor, dir := 0b0000#4, elapsed := 0#32
      pending := none, cmdReady := false, tickReady := false, running := false, phase := 0#3
      halted := false, hcause := 0#2, cfg := s.cfg, emitted := s.emitted, port := s.port }

/-- R196: while `HALTED` = 1 every operation except `RESET` has no effect. Freezing everything is the spec's own
(D18). That exec of a command class by itself, which is none of R80's thirteen operations, is frozen too is the
model's (log entry 17, DESIGN CHOICE). -/
def Obligations.HaltedCoreIgnoresAllButReset : Prop :=
  ∀ (i : Instr) (s : State), i ≠ .reset → s.halted = true → exec i s = .next s

/-! ### What a step does -/

/-- A step runs the operation that the word on the event port decodes to (R13, R61, R81). That the words to come are a
list in State, of which a step takes the first (log entry 1), and that a step begins with an empty list of actions
(log entry 2) are the model's, both DESIGN CHOICE. -/
def Obligations.StepRunsTheDecodedOperation : Prop :=
  ∀ (s : State) (i : Instr) (ev : EventWord) (rest : List EventWord),
    s.cfg.wellFormed = true → s.port = ev :: rest → i.wellFormed = true →
    decode (.event ev) = .ok i →
    Machine.step s = exec i { s with port := rest, emitted := [] }

/-- The model's choice (log entry 1; R193 has `IDLE` as "no event in this step"): with nothing left to present the
port carries `IDLE`. -/
def Obligations.EmptyPortIsAnIdleStep : Prop :=
  ∀ s : State, s.cfg.wellFormed = true → s.port = [] → Machine.step s = .next { s with emitted := [] }

/-- R9: a configuration that is not well formed is given no meaning. That it is step that refuses it is the model's
reading (log entry 4, DEDUCED). -/
def Obligations.IllFormedConfigurationIsRefused : Prop :=
  ∀ s : State, s.cfg.wellFormed = false → Machine.step s = .refused .illFormedConfiguration

/-- R9's conditions, in values of units of `2^-149`: the check holds exactly when they do. -/
def Obligations.ConfigurationCheckIsRuleNine : Prop :=
  ∀ c : Cfg, c.wellFormed = true ↔
    c.hwW = 16 ∧ c.rollW = 16 ∧ c.tickW = 32 ∧
    (f32IsFinite c.alpha = true ∧ 0 ≤ f32Scaled c.alpha ∧ f32Scaled c.alpha ≤ 2 ^ 149) ∧
    (f32IsFinite c.tMin = true ∧ 0 < f32Scaled c.tMin ∧ f32Scaled c.tMin < 2 ^ 149) ∧
    1 ≤ c.duration.toNat ∧ 1 ≤ c.maxc.toNat ∧ c.maxc.toNat ≤ 2 ^ c.ocrW - 1 ∧
    (f32IsFinite c.outMin = true ∧ f32IsFinite c.outMax = true ∧
      0 ≤ f32Scaled c.outMin ∧ f32Scaled c.outMin ≤ f32Scaled c.outMax ∧ f32Scaled c.outMax ≤ 100 * 2 ^ 149)

/-- R9's condition on `F_CLK`, `PPR`, `RPS_MAX`, `RPS_ON`, `T_S`, which is their type: the patterns of PosF32 are
exactly the finite binary32 greater than zero. -/
def Obligations.PositiveParametersAreTheFinitePositives : Prop :=
  ∀ x : F32, (∃ p : PosF32, p.bits = x) ↔ f32IsFinite x = true ∧ 0 < f32Scaled x

/-- R161, R162: a command byte in the slot of an Idle core at `PARSE` is run as the class it decodes to, and `PHASE`
moves to 4. The placement is the model's: `withFetchWord` puts the byte there (log entry 1), a word of 8 bits is a
command byte (log entry 18), and a class has an exec of its own outside `PARSE` (log entry 17), all DESIGN CHOICE. -/
def Obligations.CommandByteRunsItsClass : Prop :=
  ∀ (s : State) (b : Byte), s.cfg.wellFormed = true → s.cfg.cmdMask = 0x7F#8 →
    Machine.step (s.withFetchWord 8 b.toNat) =
      Result.mapNext
        (exec (decodeCommand b) { s with
          pending := some b, cmdReady := true, running := false, halted := false, hcause := 0#2
          phase := 3#3, emitted := [] })
        fun t => { t with phase := 4#3 }

/-- In every state that meets (I-a) and (I-b) under a well-formed configuration, a step completes. R61 and R193 have a
word on the port in every step; that a step with no word left completes too, as `IDLE`, is the model's (log entry 1,
DESIGN CHOICE). -/
def Obligations.StepCompletesUnderTheInvariants : Prop :=
  ∀ s : State, s.cfg.wellFormed = true → SlotAgrees s → PhaseInRange s → ∃ t, Machine.step s = .next t

/-- No meaning answers a fault, and the only refusals are those of states that 10_state.md R29 and R43 (I-a) exclude,
of which the choice to refuse is the model's (log entry 11, DESIGN CHOICE). -/
def Obligations.RefusalsComeFromExcludedStatesOnly : Prop :=
  ∀ (i : Instr) (s : State),
    (∀ x, exec i s ≠ .fault x) ∧
    (∀ x, exec i s = .refused x →
      (x = .phaseOutOfRange ∧ i = .step ∧ 4 < s.phase.toNat) ∨
      (x = .slotDisagrees ∧ operationOf i s = .parse ∧ s.cmdReady = true ∧ s.pending = none))

/-! ### Encodings -/

/-- R82, R84, R86, R92: the decoder reads every well-formed operation back from its encoding, with every operand at
every value. -/
def Obligations.DecodeReadsEncodedOperations : Prop :=
  ∀ i : Instr, i.wellFormed = true → decode (encode i) = .ok i

/-- R82: operand bits an operation does not use change nothing: all of `data` for the operations without an operand,
`EV[15:8]` for `RX`. -/
def Obligations.IgnoredOperandBitsChangeNothing : Prop :=
  ∀ ev ev' : EventWord, ev.op = ev'.op → ev.op ≠ 0x2#4 → ev.op ≠ 0x3#4 →
    (ev.op = 0x5#4 → ev.toNat % 2 ^ 8 = ev'.toNat % 2 ^ 8) → decodeEvent ev = decodeEvent ev'

/-- 95_test_vectors.md section 3.1: words written out from R82, R84 and R86 decode to what they stand for. -/
def Obligations.WrittenWordsDecode : Prop :=
  decode (.event 0b00001111111111111111#20) = .ok .idle ∧
  decode (.event 0b00011010101111001101#20) = .ok .ovf ∧
  decode (.event 0b00101111111111111111#20) = .ok (.edge0 0xFFFF#16) ∧
  decode (.event 0b00110001001000110100#20) = .ok (.edge1 0x1234#16) ∧
  decode (.event 0b01000000000000000000#20) = .ok .sample ∧
  decode (.event 0b01011010101101110111#20) = .ok (.rx 0x77#8) ∧
  decode (.event 0b01100000000000000000#20) = .ok .step ∧
  decode (.phased 0b01100000000000000000#20 2#3) = .ok .pi ∧
  decode (.event 0b11100001001000110100#20) = .ok .reservedE ∧
  decode (.event 0b11111111111111111111#20) = .ok .reset ∧
  decode (.command 0b11110111#8) = .ok .forward ∧
  decode (.command 0b01010111#8) = .ok (.unknown 0x57#7)

/-- R85, R86, R89: bit 7 of a command byte is ignored, and every byte falls in the one class its low seven bits name. -/
def Obligations.CommandBytesFallInOneClass : Prop :=
  ∀ b : Byte, decodeCommand b =
    if b &&& 0x7F#8 = 0x77#8 then Instr.forward
    else if b &&& 0x7F#8 = 0x73#8 then .backward
    else if b &&& 0x7F#8 = 0x61#8 then .left
    else if b &&& 0x7F#8 = 0x64#8 then .right
    else if b &&& 0x7F#8 = 0x78#8 then .stop
    else .unknown (b.setWidth 7)

/-! ### What pairs of operations do -/

/-- R162: with the mask `0x7F`, a byte and the same byte with bit 7 set are parsed identically. -/
def Obligations.HighBitOfACommandIsIgnored : Prop :=
  ∀ (s : State) (b : Byte), s.cfg.cmdMask = 0x7F#8 → s.halted = false → s.cmdReady = true → s.running = false →
    ∃ t, exec .parse { s with pending := some b } = .next t ∧
      exec .parse { s with pending := some (b ||| 0x80#8) } = .next t ∧ t.running = true

/-- R160 (a), R74: of two bytes received before either is consumed, the later one alone is in the slot. -/
def Obligations.LastWriterWinsInTheSlot : Prop :=
  ∀ (s : State) (a b : Byte), s.halted = false →
    ∃ u t, exec (.rx a) s = .next u ∧ exec (.rx b) u = .next t ∧ exec (.rx b) s = .next t ∧ t.pending = some b

/-- R113: a second capture before the first is consumed leaves the interval between the two newest edges. -/
def Obligations.SecondCaptureKeepsATrueInterval : Prop :=
  ∀ (s : State) (a b : Half), s.halted = false →
    (∃ u t, exec (.edge0 a) s = .next u ∧ exec (.edge0 b) u = .next t ∧ t.motor0.measReady = true ∧
      t.motor0.bufTick.toNat = s.roll.toNat * 2 ^ 16 + a.toNat ∧
      t.motor0.rawTick.toNat = s.roll.toNat * 2 ^ 16 + b.toNat ∧ t.motor1 = s.motor1) ∧
    (∃ u t, exec (.edge1 a) s = .next u ∧ exec (.edge1 b) u = .next t ∧ t.motor1.measReady = true ∧
      t.motor1.bufTick.toNat = s.roll.toNat * 2 ^ 16 + a.toNat ∧
      t.motor1.rawTick.toNat = s.roll.toNat * 2 ^ 16 + b.toNat ∧ t.motor0 = s.motor0)

/-- R150: two samples before one `PI` advance the collaborators once, while `ELAPSED` counts both. -/
def Obligations.SampleOverrunAdvancesOnce : Prop :=
  ∀ s : State, s.halted = false → s.running = true →
    ∃ u v w x, exec .sample s = .next u ∧ exec .sample u = .next v ∧ exec .pi v = .next w ∧
      exec .pi u = .next x ∧ w = { x with elapsed := s.elapsed + 2#32 } ∧ x.elapsed = s.elapsed + 1#32 ∧
      w.tickReady = false

/-- R122, R191: the two estimator operations share no state, so that their order cannot be observed. -/
def Obligations.EstimatorsShareNoState : Prop :=
  ∀ s : State, s.halted = false →
    ∃ u v t, exec .rps0 s = .next u ∧ exec .rps1 s = .next v ∧ exec .rps1 u = .next t ∧ exec .rps0 v = .next t

/-- R173 (b), R217: a byte received at any time while Running is stored and not acted on by `PARSE`; no operation but
`RESET` acts on the slot while Running, it only waits there, is replaced by a later byte, or is gone with the run; and
the `DONE` that ends the run discards it, with the same outcome as if it had never come. That exec of a command class
by itself does nothing on a Running core, which the second clause takes in, is the model's (log entry 17, DESIGN
CHOICE). -/
def Obligations.CollisionByteIsNeverActedOn : Prop :=
  (∀ (s : State) (b : Byte), s.halted = false → s.running = true →
    ∃ u, exec (.rx b) s = .next u ∧ u.pending = some b ∧ u.running = true ∧ exec .parse u = .next u) ∧
  (∀ (i : Instr) (s t : State), s.running = true → i ≠ .reset → exec i s = .next t →
    t.dir = s.dir ∧
    (t.running = true → t.motor0.setpoint = s.motor0.setpoint ∧ t.motor1.setpoint = s.motor1.setpoint ∧
      ((t.pending = s.pending ∧ t.cmdReady = s.cmdReady) ∨
        ∃ b, i = .rx b ∧ t.pending = some b ∧ t.cmdReady = true)) ∧
    (t.running = false → t.pending = none ∧ t.cmdReady = false)) ∧
  (∀ (s : State) (b : Byte), s.halted = false → s.running = true → s.cfg.duration.toNat ≤ s.elapsed.toNat →
    ∃ u t, exec (.rx b) s = .next u ∧ exec .done u = .next t ∧ exec .done s = .next t ∧
      t.pending = none ∧ t.cmdReady = false ∧ t.running = false ∧ t.dir = s.dir ∧ exec .parse t = .next t)

/-- R71, R174, R258: the `DONE` that follows the `PARSE` of a command in the same pass, with no event between the two,
leaves it running, with no sample counted. With a `SAMPLE` between them `ELAPSED` is 1 there (log entry 23, DEDUCED). -/
def Obligations.ParsedCommandOutlivesItsPass : Prop :=
  ∀ (s : State) (b : Byte), s.cfg.wellFormed = true → s.halted = false → s.running = false → s.cmdReady = true →
    s.pending = some b → s.phase = 3#3 →
    ∃ u t, exec .step s = .next u ∧ exec .step u = .next t ∧ t.running = true ∧ t.elapsed = 0#32 ∧
      t.phase = 0#3 ∧ t.pending = none

/-- R174 within one pass, and R71 as its case of no `SAMPLE`: whatever interrupt events lie between the `PARSE` of a
command and the `DONE` of its pass (R192), `DONE` sees `ELAPSED` at the number of `SAMPLE` events among them, and the
command is completed only when that number has reached `DURATION`. With no `SAMPLE` it is 0 and the command runs on;
that a `SAMPLE` there counts follows R26, R140 and R171 against the words of R71 (log entry 23, DEDUCED). The list of
words on the port is the model's (log entry 1, DESIGN CHOICE). -/
def Obligations.SamplesBetweenParseAndDoneAreCounted : Prop :=
  ∀ (s : State) (b : Byte) (events rest : List EventWord),
    s.cfg.wellFormed = true → s.halted = false → s.running = false → s.cmdReady = true → s.pending = some b →
    s.phase = 3#3 → (∀ ev ∈ events, ev.op.toNat ≤ 5) → s.port = stepWord :: events ++ stepWord :: rest →
    let samples := events.countP fun ev => ev.op == 0x4#4
    samples < 2 ^ 32 →
    ∃ t : State, Host.Core.run Sys2Proof.core (events.length + 2) s = .next t ∧ t.port = rest ∧ t.phase = 0#3 ∧
      t.elapsed.toNat = samples ∧ (t.running = true ↔ samples < s.cfg.duration.toNat) ∧
      (samples = 0 → t.running = true ∧ t.elapsed = 0#32)

/-! ### Whole-machine rules -/

/-- R145, R149: with no tick pending, no step but a `SAMPLE` makes one pending, and none advances a collaborator,
writes a compare register of a Running core or emits `PWM_CLR`. So a command parsed with `TICK_READY` = 0, as an Idle
`PI` leaves it, waits for its first `SAMPLE`; one parsed with a tick pending does not (R31, R161: `PARSE` does not
touch `TICK_READY`), against the words of R149 (log entry 22, DEDUCED). The list of actions in State and the empty
port as `IDLE` are the model's (log entries 1, 2, DESIGN CHOICE). -/
def Obligations.ControlUpdateWaitsForASample : Prop :=
  (∀ s : State, s.halted = false → s.running = false → ∃ t, exec .pi s = .next t ∧ t.tickReady = false) ∧
  ∀ s t : State, s.tickReady = false → decodeEvent (fetchWord s) ≠ .sample → Machine.step s = .next t →
    t.tickReady = false ∧ t.emitted = [] ∧
    (t.running = true →
      t.motor0.pictl = s.motor0.pictl ∧ t.motor1.pictl = s.motor1.pictl ∧
      t.motor0.ocr = s.motor0.ocr ∧ t.motor1.ocr = s.motor1.ocr)

/-- R42, with R38 for `DIR`: which operation may change each register; `RESET` apart, a register changes only by the
operations listed. That the command classes, which `PARSE` runs, are writers of their own (log entry 17), and the
clause on the event port's list (log entry 1) are the model's, both DESIGN CHOICE; so is the reading of the code under
a `CMD_MASK` other than `0x7F` in the clause on `DIR` (log entry 10, DEDUCED). -/
def Obligations.EachRegisterHasItsWriters : Prop :=
  ∀ (i : Instr) (s t : State), exec i s = .next t → i ≠ .reset →
    let op := operationOf i s
    (t.roll ≠ s.roll → op = .ovf) ∧
    (t.motor0.rawTick ≠ s.motor0.rawTick ∨ t.motor0.bufTick ≠ s.motor0.bufTick → ∃ hw, op = .edge0 hw) ∧
    (t.motor1.rawTick ≠ s.motor1.rawTick ∨ t.motor1.bufTick ≠ s.motor1.bufTick → ∃ hw, op = .edge1 hw) ∧
    (s.motor0.measReady = false → t.motor0.measReady = true → ∃ hw, op = .edge0 hw) ∧
    (s.motor1.measReady = false → t.motor1.measReady = true → ∃ hw, op = .edge1 hw) ∧
    (s.motor0.measReady = true → t.motor0.measReady = false → op = .rps0) ∧
    (s.motor1.measReady = true → t.motor1.measReady = false → op = .rps1) ∧
    (t.motor0.frps ≠ s.motor0.frps → op = .rps0) ∧
    (t.motor1.frps ≠ s.motor1.frps → op = .rps1) ∧
    (t.motor0.setpoint ≠ s.motor0.setpoint ∨ t.motor1.setpoint ≠ s.motor1.setpoint →
      op.startsCommand = true ∨ op = .done) ∧
    (t.motor0.pictl ≠ s.motor0.pictl ∨ t.motor1.pictl ≠ s.motor1.pictl ∨
      t.motor0.ocr ≠ s.motor0.ocr ∨ t.motor1.ocr ≠ s.motor1.ocr → op = .pi ∨ op = .done) ∧
    (t.dir ≠ s.dir → op ∈ [.forward, .backward, .left, .right, .stop] ∨
      (op = .parse ∧ ∃ b, s.pending = some b ∧
        ((b &&& s.cfg.cmdMask).setWidth 7 : Code) ∈ [0x77#7, 0x73#7, 0x61#7, 0x64#7, 0x78#7])) ∧
    (s.tickReady = false → t.tickReady = true → op = .sample) ∧
    (s.tickReady = true → t.tickReady = false → op = .pi) ∧
    (t.elapsed ≠ s.elapsed →
      (op = .sample ∧ t.elapsed = s.elapsed + 1#32) ∨ (op.startsCommand = true ∧ t.elapsed = 0#32)) ∧
    (t.pending ≠ s.pending ∨ t.cmdReady ≠ s.cmdReady →
      (∃ b, op = .rx b ∧ t.pending = some b ∧ t.cmdReady = true) ∨
      ((op.startsCommand = true ∨ op = .done) ∧ t.pending = none ∧ t.cmdReady = false)) ∧
    (s.running = false → t.running = true → op.startsCommand = true) ∧
    (s.running = true → t.running = false → op = .done) ∧
    (t.phase ≠ s.phase → i = .step) ∧
    (t.halted ≠ s.halted ∨ t.hcause ≠ s.hcause →
      op ∈ [.reserved7, .reserved8, .reserved9, .reservedA, .reservedB, .reservedC, .reservedD, .reservedE]) ∧
    t.port = s.port

/-- R40, R194: no operation, `RESET` included, writes the configuration. -/
def Obligations.ConfigurationIsNeverWritten : Prop :=
  ∀ s t : State, Machine.step s = .next t → t.cfg = s.cfg

/-- R39, R148: a step emits nothing, or `PWM_CLR` once, and that only when `PI` ran on a live, Running core with
`TICK_READY` set.
The lists of words and of actions in State are the model's (log entries 1, 2, DESIGN CHOICE). -/
def Obligations.PwmClearComesFromPiAlone : Prop :=
  ∀ s t : State, Machine.step s = .next t →
    t.emitted = [] ∨
    (t.emitted = [.pwmClr] ∧ s.halted = false ∧ s.tickReady = true ∧ s.running = true ∧
      (decodeEvent (fetchWord s) = .step ∧ s.phase = 2#3))

/-- R172, R175: `RUNNING` rises only where a command is parsed while Idle, and falls only where `DONE` finds the
duration reached, or by `RESET`. -/
def Obligations.RunningChangesAtItsTwoTransitions : Prop :=
  ∀ s t : State, Machine.step s = .next t →
    (s.running = false → t.running = true →
      decodeEvent (fetchWord s) = .step ∧ s.phase = 3#3 ∧ s.cmdReady = true ∧ s.halted = false ∧
      t.elapsed = 0#32) ∧
    (s.running = true → t.running = false →
      decodeEvent (fetchWord s) = .reset ∨
      (decodeEvent (fetchWord s) = .step ∧ s.phase = 4#3 ∧ s.cfg.duration.toNat ≤ s.elapsed.toNat ∧
        s.halted = false))

/-- R196, R213, R214: a halted core's step changes no register unless it is `RESET`, and the output port keeps its
levels.
The lists of words and of actions in State are the model's (log entries 1, 2, DESIGN CHOICE). -/
def Obligations.HaltEndsOnlyByReset : Prop :=
  ∀ s t : State, s.halted = true → Machine.step s = .next t →
    (decodeEvent (fetchWord s) = .reset ∧ t.halted = false ∧ t.hcause = 0#2) ∨
    (t = { s with emitted := [], port := s.port.tail } ∧
      t.outputPort = { s.outputPort with pwmClr := false })

/-! ### Invariants -/

/-- R43, R44: every invariant holds in the reset state. -/
def Obligations.InvariantsHoldAtReset : Prop :=
  ControlInv State.reset ∧ CompareInRange State.reset ∧ EstimatesFinite State.reset ∧ OffWhileIdle State.reset ∧
  CollaboratorsReachable State.reset ∧ State.reset.cfg.dirtab.Legal ∧ LegalDir State.reset.dir ∧
  State.reset.cfg.wellFormed = true

/-- R43 (I-a), (I-b), (I-e), (I-f): every step keeps them. -/
def Obligations.EveryStepKeepsControlInvariants : Prop :=
  ∀ s t : State, ControlInv s → Machine.step s = .next t → ControlInv t

/-- R43 (I-d), R130: every step keeps the estimates finite and not negative, for a configuration whose speeds are
ordinary (log entry 13). -/
def Obligations.EveryStepKeepsEstimatesFinite : Prop :=
  ∀ s t : State, s.cfg.speedsOrdinary → EstimatesFinite s → Machine.step s = .next t → EstimatesFinite t

/-- R43 (I-c), R147: every step keeps the compare values within `0 .. MAXC`, for a top value of at most 16 bits (log
entry 14), in states that meet the other invariants. -/
def Obligations.EveryStepKeepsComparesInRange : Prop :=
  ∀ s t : State, s.cfg.topOrdinary → ControlInv s → EstimatesFinite s → CollaboratorsReachable s →
    CompareInRange s → Machine.step s = .next t → CompareInRange t

/-- R141 to R145: every step keeps both collaborator states among those that calls keeping the contract lead to, in
states that meet the other invariants. -/
def Obligations.EveryStepKeepsCollaboratorsReachable : Prop :=
  ∀ s t : State, ControlInv s → EstimatesFinite s → CollaboratorsReachable s → Machine.step s = .next t →
    CollaboratorsReachable t

/-- R38, R91: under a direction table without the code `11` no step drives it. That the table has no such entry is a
premise, since R9 does not require it (log entry 21, DESIGN CHOICE); the default table has none. -/
def Obligations.EveryStepKeepsDirectionsLegal : Prop :=
  ∀ s t : State, s.cfg.dirtab.Legal → LegalDir s.dir → Machine.step s = .next t →
    t.cfg.dirtab.Legal ∧ LegalDir t.dir

/-- 95_test_vectors.md section 5, item 3: whenever the core is Idle both compare registers are fully off. -/
def Obligations.EveryStepKeepsMotorsOffWhileIdle : Prop :=
  ∀ s t : State, OffWhileIdle s → Machine.step s = .next t → OffWhileIdle t

/-! ### Arithmetic -/

/-- R11: each primitive gives the exact real result rounded once to binary32, to nearest, ties to even, wherever
that rounding stays within the finite numbers. -/
def Obligations.PrimitivesRoundOnceToNearestEven : Prop :=
  (∀ a b : F32, f32IsFinite a = true → f32IsFinite b = true →
    (BelowOverflow (f32Scaled a + f32Scaled b) 1 → NearestEven (f32Scaled a + f32Scaled b) 1 (fadd a b)) ∧
    (BelowOverflow (f32Scaled a - f32Scaled b) 1 → NearestEven (f32Scaled a - f32Scaled b) 1 (fsub a b)) ∧
    (BelowOverflow (f32Scaled a * f32Scaled b) (2 ^ 149) →
      NearestEven (f32Scaled a * f32Scaled b) (2 ^ 149) (fmul a b)) ∧
    (f32Scaled b ≠ 0 → BelowOverflow (f32Scaled a * 2 ^ 149) (f32Scaled b) →
      NearestEven (f32Scaled a * 2 ^ 149) (f32Scaled b) (fdiv a b))) ∧
  (∀ n : BitVec 32, NearestEven (n.toNat * 2 ^ 149) 1 (u32ToF32 n))

/-- R11: `round_haz` gives the nearest integer, and of two as near the one farther from zero. -/
def Obligations.RoundHazIsNearestAwayFromZero : Prop :=
  ∀ x : F32, f32IsFinite x = true →
    2 * |roundHaz x * 2 ^ 149 - f32Scaled x| ≤ 2 ^ 149 ∧
    (2 * |roundHaz x * 2 ^ 149 - f32Scaled x| = 2 ^ 149 → |f32Scaled x| < |roundHaz x| * 2 ^ 149)

/-- R11, R124: the conversion of an unsigned number is exact up to `2^24`. -/
def Obligations.ConversionIsExactUpTo2Pow24 : Prop :=
  ∀ n : BitVec 32, n.toNat ≤ 2 ^ 24 →
    f32IsFinite (u32ToF32 n) = true ∧ f32Scaled (u32ToF32 n) = n.toNat * 2 ^ 149

/-- R125: for a threshold strictly between 0 and 1 the near-zero test is true exactly when no tick has passed. -/
def Obligations.NearZeroTestMeansNoTicks : Prop :=
  ∀ (c : Cfg) (n : BitVec 32), c.wellFormed = true → (flt (u32ToF32 n) c.tMin = true ↔ n.toNat = 0)

/-- R147: for an output within the collaborator's bounds the mapping lies in `0 .. MAXC` and the register holds it;
the extremes are the document's fixed points. For a top value of at most 16 bits (log entry 14). -/
def Obligations.DutyMappingStaysInRange : Prop :=
  (∀ (c : Cfg) (out : F32), c.wellFormed = true → c.topOrdinary → f32Within c.outMin c.outMax out = true →
    0 ≤ dutyToCompare c out ∧ dutyToCompare c out ≤ c.maxc.toNat ∧
    compareWrite c (dutyToCompare c out) = (dutyToCompare c out).toNat) ∧
  (∀ c : Cfg, c.topOrdinary →
    dutyToCompare c 0x00000000#32 = c.maxc.toNat ∧ dutyToCompare c 0x42C80000#32 = 0)

/-- R147: more duty, smaller compare. For a top value of at most 16 bits (log entry 14). -/
def Obligations.DutyMappingDecreases : Prop :=
  ∀ (c : Cfg) (x y : F32), c.topOrdinary → f32IsFinite x = true → f32IsFinite y = true →
    0 ≤ f32Scaled x → f32Scaled x ≤ f32Scaled y → f32Scaled y ≤ 100 * 2 ^ 149 →
    dutyToCompare c y ≤ dutyToCompare c x

/-- R130: with the default filter constant 0.5 the estimate never exceeds `RPS_MAX`, for ordinary speeds (log entry
13). -/
def Obligations.HalfFilterStaysBelievable : Prop :=
  ∀ (s t : State) (i : Instr), s.cfg.wellFormed = true → s.cfg.alpha = 0x3F000000#32 → s.cfg.speedsOrdinary →
    (2 ^ 49 : Int) ≤ f32Scaled s.cfg.rpsMax.bits →
    FiniteUpTo (f32Scaled s.cfg.rpsMax.bits).toNat s.motor0.frps →
    FiniteUpTo (f32Scaled s.cfg.rpsMax.bits).toNat s.motor1.frps →
    exec i s = .next t →
    FiniteUpTo (f32Scaled s.cfg.rpsMax.bits).toNat t.motor0.frps ∧
    FiniteUpTo (f32Scaled s.cfg.rpsMax.bits).toNat t.motor1.frps

/-- R143 (L-adv), R144: in a reachable state, and in that state cleared, the collaborator's output for a finite error
is a finite binary32 within its bounds. It holds because a collaborator that breaks the law is no value of the type
the model takes `PI` from, which is the model's way to refuse one (log entry 6, DESIGN CHOICE). -/
def Obligations.CollaboratorAnswersWithinBounds : Prop :=
  ∀ (cfg : Cfg) (p q : PiState) (err : F32), cfg.wellFormed = true → PiReachable cfg.pi cfg p →
    q = p ∨ q = cfg.pi.clear p → f32IsFinite err = true →
    let out := (cfg.pi.advance q cfg.tS.bits err).2
    f32IsFinite out = true ∧ f32Scaled cfg.outMin ≤ f32Scaled out ∧ f32Scaled out ≤ f32Scaled cfg.outMax

/-- R101, R102: `tickpos(ROLL, hw) = ROLL * 2^16 + hw`; one `OVF` adds exactly `2^16` to it, modulo `2^32`; and along
any sequence of `OVF` operations (the states `f n`) it has moved by `n * 2^16` modulo `2^32`, so that it is back after
`2^16` of them. -/
def Obligations.TickPositionCountsOverflows : Prop :=
  (∀ roll hw : Half, (tickpos roll hw).toNat = roll.toNat * 2 ^ 16 + hw.toNat) ∧
  (∀ (s : State) (hw : Half), s.halted = false →
    ∃ t, exec .ovf s = .next t ∧ (tickpos t.roll hw).toNat = ((tickpos s.roll hw).toNat + 2 ^ 16) % 2 ^ 32) ∧
  (∀ (f : Nat → State) (hw : Half), (f 0).halted = false → (∀ n, exec .ovf (f n) = .next (f (n + 1))) →
    (∀ n, (tickpos (f n).roll hw).toNat = ((tickpos (f 0).roll hw).toNat + n * 2 ^ 16) % 2 ^ 32) ∧
    tickpos (f (2 ^ 16)).roll hw = tickpos (f 0).roll hw)

/-- R126, R128, R147 and the source's properties S2, S4: worked values of the default parameters. -/
def Obligations.WorkedExamples : Prop :=
  rawSpeed Cfg.default (u32ToF32 1000#32) = 0x42829CBC#32 ∧
  filterSpeed Cfg.default 0x00000000#32 0x42829CBC#32 = 0x42029CBC#32 ∧
  dutyToCompare Cfg.default 0x00000000#32 = 255 ∧ dutyToCompare Cfg.default 0x42C80000#32 = 0 ∧
  dutyToCompare Cfg.default 0x42480000#32 = 128 ∧ dutyToCompare Cfg.default 0x42266666#32 = 149

/-! ### Runs under the reference environment -/

/-- R104, R105: two pulses of one motor separated by `n` ticks of the reference timer leave a latch pair whose
difference is `n` modulo `2^32`, the `raw + (2^32 - buffered)` of the document when the position wrapped.
The list of words on the port is the model's (log entry 1, DESIGN CHOICE). -/
def Obligations.TickExtensionMeasuresElapsedTicks : Prop :=
  ∀ (s : State) (m : MotorId) (n : Nat) (t : Half) (rest : List EventWord),
    s.cfg.wellFormed = true → s.halted = false →
    s.port = pulseEvent m t :: advEvents n t ++ pulseEvent m (advTimer n t) :: rest →
    ∃ u : State, Host.Core.run Sys2Proof.core ((advEvents n t).length + 2) s = .next u ∧ u.port = rest ∧
      ((u.motor m).rawTick - (u.motor m).bufTick).toNat = n % 2 ^ 32 ∧
      ((u.motor m).rawTick.toNat < (u.motor m).bufTick.toNat →
        n % 2 ^ 32 = (u.motor m).rawTick.toNat + (2 ^ 32 - (u.motor m).bufTick.toNat))

/-- R174: with one scheduler pass after each sample, a running command ends after exactly its remaining samples, with
setpoints 0, compares off and the collaborator states that the last `PI` of the run left (at `v`) cleared, and not
before.
The lists of words and of actions in State are the model's (log entries 1, 2, DESIGN CHOICE). -/
def Obligations.CommandRunsForItsDuration : Prop :=
  ∀ (s : State) (n : Nat) (rest : List EventWord),
    s.cfg.wellFormed = true → s.halted = false → s.running = true → s.phase = 0#3 →
    s.elapsed.toNat < s.cfg.duration.toNat →
    s.port = (List.replicate n (sampleWord :: passEvents)).flatten ++ rest →
    (s.elapsed.toNat + n < s.cfg.duration.toNat →
      ∃ u : State, Host.Core.run Sys2Proof.core (6 * n) s = .next u ∧ u.port = rest ∧ u.running = true ∧
        u.elapsed.toNat = s.elapsed.toNat + n ∧ u.phase = 0#3) ∧
    (s.elapsed.toNat + n = s.cfg.duration.toNat →
      ∃ u v : State, Host.Core.run Sys2Proof.core (6 * (n - 1) + 4) s = .next v ∧ v.emitted = [.pwmClr] ∧
        Host.Core.run Sys2Proof.core (6 * n) s = .next u ∧ u.port = rest ∧
        u.running = false ∧ u.elapsed = s.cfg.duration ∧ u.phase = 0#3 ∧
        u.motor0.setpoint = 0x00000000#32 ∧ u.motor1.setpoint = 0x00000000#32 ∧
        u.motor0.ocr = s.cfg.maxc.toNat ∧ u.motor1.ocr = s.cfg.maxc.toNat ∧
        u.motor0.pictl = s.cfg.pi.clear v.motor0.pictl ∧ u.motor1.pictl = s.cfg.pi.clear v.motor1.pictl ∧
        u.pending = none ∧ u.cmdReady = false)
end

