-- ==== Sys2Proof/Laws/Binary32.lean ====
section
/-!
SUPPORT. The laws of the binary32 primitives (00_scope.md R11): magnitudes grow with their bits, rounding is to
the nearest magnitude with ties to even, a rounded result lies between any two finite numbers the exact value
lies between. The last law, one lemma per primitive, is what range claims cite.
-/

namespace Sys2Proof.Machine

open Sys2Proof

/-- The rounded quotient is the floor or the next integer, whichever is nearer; on a tie, the even one. -/
theorem roundHalfEven_floor_or_ceil (num den : Nat) :
    (roundHalfEven num den = num / den ∧ 2 * (num % den) ≤ den ∧
        (2 * (num % den) = den → num / den % 2 = 0)) ∨
    (roundHalfEven num den = num / den + 1 ∧ den ≤ 2 * (num % den) ∧
        (2 * (num % den) = den → (num / den + 1) % 2 = 0)) := by
  unfold roundHalfEven
  split
  · left; omega
  · split
    · right; omega
    · rcases Nat.mod_two_eq_zero_or_one (num / den) with h | h
      · left; omega
      · right; omega

/-- No integer is nearer to `num / den` than the rounded quotient, and on a tie that is even. -/
theorem roundHalfEven_nearest (num den : Nat) (hd : 0 < den) (n : Int) :
    |(roundHalfEven num den : Int) * den - num| ≤ |n * den - num| ∧
    (n ≠ roundHalfEven num den → |(roundHalfEven num den : Int) * den - num| = |n * den - num| →
      roundHalfEven num den % 2 = 0) := by
  have hdm : (num : Int) = (num / den : Nat) * den + (num % den : Nat) := by
    have := Nat.div_add_mod' num den
    exact_mod_cast this.symm
  have hr : ((num % den : Nat) : Int) < den := by exact_mod_cast Nat.mod_lt num hd
  have hr0 : 0 ≤ ((num % den : Nat) : Int) := by positivity
  have hd' : (0 : Int) < den := by exact_mod_cast hd
  generalize hq : num / den = q at *
  generalize hrr : num % den = r at *
  have hn : n ≤ q ∨ (q : Int) + 1 ≤ n := by omega
  have hdist : (n ≤ q ∧ |n * den - num| = (q - n) * den + r) ∨
      ((q : Int) + 1 ≤ n ∧ |n * den - num| = (n - (q + 1)) * den + (den - r)) := by
    rcases hn with h | h
    · left; refine ⟨h, ?_⟩
      have : 0 ≤ ((q : Int) - n) * den := by apply mul_nonneg <;> omega
      rw [abs_of_nonpos] <;> rw [hdm] <;> nlinarith
    · right; refine ⟨h, ?_⟩
      have : 0 ≤ (n - ((q : Int) + 1)) * den := by apply mul_nonneg <;> omega
      rw [abs_of_nonneg] <;> rw [hdm] <;> nlinarith
  rcases roundHalfEven_floor_or_ceil num den with ⟨hk, h2, he⟩ | ⟨hk, h2, he⟩
  · rw [hq, hrr] at *
    rw [hk]
    have hk' : |(q : Int) * den - num| = r := by rw [abs_of_nonpos] <;> rw [hdm] <;> nlinarith
    rw [hk']
    rcases hdist with ⟨h, hh⟩ | ⟨h, hh⟩
    · rw [hh]
      have h0 : 0 ≤ ((q : Int) - n) * den := by apply mul_nonneg <;> omega
      refine ⟨by linarith, fun hne heq => ?_⟩
      have : 0 < ((q : Int) - n) * den := by apply mul_pos <;> omega
      omega
    · rw [hh]
      have h0 : 0 ≤ (n - ((q : Int) + 1)) * den := by apply mul_nonneg <;> omega
      refine ⟨by omega, fun hne heq => he ?_⟩
      omega
  · rw [hq, hrr] at *
    rw [hk]
    have hk' : |((q + 1 : Nat) : Int) * den - num| = den - r := by
      rw [abs_of_nonneg] <;> rw [hdm] <;> push_cast <;> nlinarith
    rw [hk']
    rcases hdist with ⟨h, hh⟩ | ⟨h, hh⟩
    · rw [hh]
      have h0 : 0 ≤ ((q : Int) - n) * den := by apply mul_nonneg <;> omega
      refine ⟨by omega, fun hne heq => he ?_⟩
      omega
    · rw [hh]
      have h0 : 0 ≤ (n - ((q : Int) + 1)) * den := by apply mul_nonneg <;> omega
      refine ⟨by linarith, fun hne heq => ?_⟩
      have hne' : n ≠ q + 1 := by push_cast at hne; exact hne
      have : 0 < (n - ((q : Int) + 1)) * den := by apply mul_pos <;> omega
      omega

/-- An integer at or below the quotient is at or below its rounding. -/
theorem le_roundHalfEven (num den n : Nat) (hd : 0 < den) (h : n * den ≤ num) : n ≤ roundHalfEven num den := by
  have : n ≤ num / den := (Nat.le_div_iff_mul_le hd).2 h
  rcases roundHalfEven_floor_or_ceil num den with ⟨hk, -⟩ | ⟨hk, -⟩ <;> omega

/-- An integer at or above the quotient is at or above its rounding. -/
theorem roundHalfEven_le (num den n : Nat) (hd : 0 < den) (h : num ≤ n * den) : roundHalfEven num den ≤ n := by
  have h1 : num / den ≤ n := Nat.div_le_of_le_mul (by rwa [Nat.mul_comm] at h)
  rcases roundHalfEven_floor_or_ceil num den with ⟨hk, -⟩ | ⟨hk, h2, -⟩
  · omega
  · have hdm := Nat.div_add_mod' num den
    by_contra hc
    have : num / den = n := by omega
    rw [this] at hdm
    omega

/-- Magnitudes up to `2^24` units are their own bits. -/
theorem magnitudeOf_small (k : Nat) (h : k ≤ 2 ^ 24) : f32MagnitudeOf k = k := by
  unfold f32MagnitudeOf
  split
  · rfl
  · rcases Nat.lt_or_ge k (2^24) with h1 | h1
    · have : k / 2 ^ 23 = 1 := by omega
      rw [this]; omega
    · have : k = 2 ^ 24 := by omega
      subst this; norm_num

/-- A 24-bit significand `k` at shift `s` has the bits `s * 2^23 + k`. -/
theorem magnitudeOf_scaled (s k : Nat) (h1 : 2 ^ 23 ≤ k) (h2 : k ≤ 2 ^ 24) :
    f32MagnitudeOf (s * 2 ^ 23 + k) = k * 2 ^ s := by
  unfold f32MagnitudeOf
  rw [if_neg (by omega)]
  rcases Nat.lt_or_ge k (2^24) with h | h
  · have e1 : (s * 2 ^ 23 + k) / 2 ^ 23 = s + 1 := by omega
    have e2 : (s * 2 ^ 23 + k) % 2 ^ 23 = k - 2 ^ 23 := by omega
    rw [e1, e2, show s + 1 - 1 = s from rfl, show 2 ^ 23 + (k - 2 ^ 23) = k by omega]
  · have : k = 2 ^ 24 := by omega
    subst this
    have e1 : (s * 2 ^ 23 + 2 ^ 24) / 2 ^ 23 = s + 2 := by omega
    have e2 : (s * 2 ^ 23 + 2 ^ 24) % 2 ^ 23 = 0 := by omega
    rw [e1, e2, show s + 2 - 1 = s + 1 from rfl, pow_succ]; ring

/-- The next pattern is a larger magnitude. -/
theorem magnitudeOf_lt_succ (b : Nat) : f32MagnitudeOf b < f32MagnitudeOf (b + 1) := by
  rcases Nat.lt_or_ge b (2 ^ 24) with h | h
  · rw [magnitudeOf_small _ (by omega), magnitudeOf_small _ (by omega)]; omega
  · obtain ⟨s, k, hk1, hk2, rfl⟩ : ∃ s k, 2 ^ 23 ≤ k ∧ k < 2 ^ 24 ∧ b = s * 2 ^ 23 + k :=
      ⟨b / 2 ^ 23 - 1, 2 ^ 23 + b % 2 ^ 23, by omega, by omega, by omega⟩
    rw [Nat.add_assoc, magnitudeOf_scaled s k hk1 (by omega), magnitudeOf_scaled s (k + 1) (by omega) (by omega)]
    have : 0 < 2 ^ s := by positivity
    nlinarith

/-- Magnitudes grow strictly with their bits. -/
theorem magnitudeOf_strictMono : StrictMono f32MagnitudeOf := strictMono_nat_of_lt_succ magnitudeOf_lt_succ

/-- The shift keeps 24 bits of a magnitude. -/
theorem shift_spec (q : Nat) :
    q < 2 ^ (24 + f32Shift q) ∧ (f32Shift q = 0 ∨ 2 ^ (23 + f32Shift q) ≤ q) := by
  unfold f32Shift
  split
  · exact ⟨by rw [Nat.add_zero]; assumption, .inl rfl⟩
  · rename_i h
    have hq : q ≠ 0 := by omega
    have h1 : 24 ≤ Nat.log2 q := (Nat.le_log2 hq).2 (by omega)
    have h3 := Nat.lt_log2_self (n := q)
    have h4 := Nat.log2_self_le hq
    refine ⟨?_, .inr ?_⟩
    · rw [show 24 + (Nat.log2 q - 23) = Nat.log2 q + 1 by omega]; exact h3
    · rw [show 23 + (Nat.log2 q - 23) = Nat.log2 q by omega]; exact h4

/-- What rounding gives: a significand of at most 24 bits at the value's shift. -/
theorem roundBits_spec (num den : Nat) (hd : 0 < den) :
    ∃ s k, f32RoundBits num den = s * 2 ^ 23 + k ∧ k = roundHalfEven num (den * 2 ^ s) ∧ k ≤ 2 ^ 24 ∧
      num < 2 ^ (24 + s) * den ∧
      (s = 0 ∨ (2 ^ 23 ≤ k ∧ 2 ^ (23 + s) * den ≤ num)) ∧
      f32MagnitudeOf (s * 2 ^ 23 + k) = k * 2 ^ s := by
  refine ⟨f32Shift (num / den), _, rfl, rfl, ?_⟩
  obtain ⟨h1, h2⟩ := shift_spec (num / den)
  generalize f32Shift (num / den) = s at *
  have hp : 0 < den * 2 ^ s := by positivity
  have hlt : num < 2 ^ (24 + s) * den := (Nat.div_lt_iff_lt_mul hd).1 h1
  have hk : roundHalfEven num (den * 2 ^ s) ≤ 2 ^ 24 := by
    apply roundHalfEven_le _ _ _ hp
    calc num ≤ 2 ^ (24 + s) * den := hlt.le
      _ = 2 ^ 24 * (den * 2 ^ s) := by rw [pow_add]; ring
  refine ⟨hk, hlt, ?_⟩
  rcases h2 with h2 | h2
  · subst h2
    refine ⟨.inl rfl, ?_⟩
    simpa using magnitudeOf_small _ hk
  · have h3 : 2 ^ (23 + s) * den ≤ num := (Nat.le_div_iff_mul_le hd).1 h2
    have h4 : 2 ^ 23 ≤ roundHalfEven num (den * 2 ^ s) := by
      apply le_roundHalfEven _ _ _ hp
      calc 2 ^ 23 * (den * 2 ^ s) = 2 ^ (23 + s) * den := by rw [pow_add]; ring
        _ ≤ num := h3
    exact ⟨.inr ⟨h4, h3⟩, magnitudeOf_scaled s _ h4 hk⟩

/-- A magnitude at or below the exact value is at or below its rounding. -/
theorem le_roundBits (num den b : Nat) (hd : 0 < den) (h : f32MagnitudeOf b * den ≤ num) : b ≤ f32RoundBits num den := by
  obtain ⟨s, k, hr, hk, hk24, hlt, hs, hm⟩ := roundBits_spec num den hd
  rw [hr]
  apply magnitudeOf_strictMono.le_iff_le.1
  rw [hm]
  rcases hs with rfl | ⟨hk23, hge⟩
  · simp only [pow_zero, mul_one] at *
    rw [hk]; exact le_roundHalfEven _ _ _ hd h
  · rcases Nat.lt_or_ge b ((s + 1) * 2 ^ 23) with hb | hb
    · have h1 : f32MagnitudeOf b < f32MagnitudeOf (s * 2 ^ 23 + 2 ^ 23) := magnitudeOf_strictMono (by omega)
      rw [magnitudeOf_scaled s _ le_rfl (by norm_num)] at h1
      have : 2 ^ 23 * 2 ^ s ≤ k * 2 ^ s := Nat.mul_le_mul_right _ hk23
      omega
    · -- b in binade ≥ s+1
      obtain ⟨s', k', hk1, hk2, hss, rfl⟩ : ∃ s' k', 2 ^ 23 ≤ k' ∧ k' < 2 ^ 24 ∧ s ≤ s' ∧ b = s' * 2 ^ 23 + k' :=
        ⟨b / 2 ^ 23 - 1, 2 ^ 23 + b % 2 ^ 23, by omega, by omega, by omega, by omega⟩
      obtain ⟨d, rfl⟩ := Nat.exists_eq_add_of_le hss
      rw [magnitudeOf_scaled _ k' hk1 hk2.le] at h ⊢
      have e : k' * 2 ^ (s + d) = (k' * 2 ^ d) * 2 ^ s := by rw [pow_add]; ring
      rw [e] at h ⊢
      apply Nat.mul_le_mul_right
      rw [hk]
      apply le_roundHalfEven _ _ _ (by positivity)
      calc k' * 2 ^ d * (den * 2 ^ s) = k' * 2 ^ d * 2 ^ s * den := by ring
        _ ≤ num := h

/-- A magnitude at or above the exact value is at or above its rounding. -/
theorem roundBits_le (num den b : Nat) (hd : 0 < den) (h : num ≤ f32MagnitudeOf b * den) : f32RoundBits num den ≤ b := by
  obtain ⟨s, k, hr, hk, hk24, hlt, hs, hm⟩ := roundBits_spec num den hd
  rw [hr]
  apply magnitudeOf_strictMono.le_iff_le.1
  rw [hm]
  rcases hs with rfl | ⟨hk23, hge⟩
  · simp only [pow_zero, mul_one] at *
    rw [hk]; exact roundHalfEven_le _ _ _ hd h
  · rcases Nat.lt_or_ge b ((s + 1) * 2 ^ 23) with hb | hb
    · exfalso
      have h1 : f32MagnitudeOf b < f32MagnitudeOf (s * 2 ^ 23 + 2 ^ 23) := magnitudeOf_strictMono (by omega)
      rw [magnitudeOf_scaled s _ le_rfl (by norm_num)] at h1
      have h2 : 2 ^ (23 + s) * den ≤ f32MagnitudeOf b * den := hge.trans h
      have h3 := Nat.le_of_mul_le_mul_right h2 hd
      rw [pow_add] at h3; omega
    · obtain ⟨s', k', hk1, hk2, hss, rfl⟩ : ∃ s' k', 2 ^ 23 ≤ k' ∧ k' < 2 ^ 24 ∧ s ≤ s' ∧ b = s' * 2 ^ 23 + k' :=
        ⟨b / 2 ^ 23 - 1, 2 ^ 23 + b % 2 ^ 23, by omega, by omega, by omega, by omega⟩
      obtain ⟨d, rfl⟩ := Nat.exists_eq_add_of_le hss
      rw [magnitudeOf_scaled _ k' hk1 hk2.le] at h ⊢
      have e : k' * 2 ^ (s + d) = (k' * 2 ^ d) * 2 ^ s := by rw [pow_add]; ring
      rw [e] at h ⊢
      apply Nat.mul_le_mul_right
      rw [hk]
      apply roundHalfEven_le _ _ _ (by positivity)
      calc num ≤ k' * 2 ^ d * 2 ^ s * den := h
        _ = k' * 2 ^ d * (den * 2 ^ s) := by ring

/-- No magnitude is nearer to the exact value than its rounding, and on a tie that has an even last place. -/
theorem roundBits_nearest (num den b : Nat) (hd : 0 < den) :
    |(f32MagnitudeOf (f32RoundBits num den) : Int) * den - num| ≤ |(f32MagnitudeOf b : Int) * den - num| ∧
    (b ≠ f32RoundBits num den →
      |(f32MagnitudeOf (f32RoundBits num den) : Int) * den - num| = |(f32MagnitudeOf b : Int) * den - num| →
      f32RoundBits num den % 2 = 0) := by
  obtain ⟨s, k, hr, hk, hk24, hlt, hs, hm⟩ := roundBits_spec num den hd
  rw [hr, hm]
  have key : ∀ n : Nat, |((k * 2 ^ s : Nat) : Int) * den - num| ≤ |((n * 2 ^ s : Nat) : Int) * den - num| ∧
      (n ≠ k → |((k * 2 ^ s : Nat) : Int) * den - num| = |((n * 2 ^ s : Nat) : Int) * den - num| → k % 2 = 0) := by
    intro n
    have := roundHalfEven_nearest num (den * 2 ^ s) (by positivity) n
    rw [← hk] at this
    have e : ∀ x : Nat, ((x * 2 ^ s : Nat) : Int) * den = (x : Int) * ((den * 2 ^ s : Nat) : Int) := by
      intro x; push_cast; ring
    rw [e, e]
    refine ⟨this.1, fun hne => this.2 (by exact_mod_cast hne)⟩
  by_cases hmul : ∃ n, f32MagnitudeOf b = n * 2 ^ s
  · obtain ⟨n, hn⟩ := hmul
    rw [hn]
    refine ⟨(key n).1, fun hne heq => ?_⟩
    have hnk : n ≠ k := by
      rintro rfl
      apply hne
      apply magnitudeOf_strictMono.injective
      rw [hm, hn]
    have := (key n).2 hnk heq
    omega
  · rcases hs with rfl | ⟨hk23, hge⟩
    · exact absurd ⟨f32MagnitudeOf b, by simp⟩ hmul
    · -- b below the binade
      have hb : b < (s + 1) * 2 ^ 23 := by
        by_contra hb
        apply hmul
        obtain ⟨s', k', hk1, hk2, hss, rfl⟩ : ∃ s' k', 2 ^ 23 ≤ k' ∧ k' < 2 ^ 24 ∧ s ≤ s' ∧ b = s' * 2 ^ 23 + k' :=
          ⟨b / 2 ^ 23 - 1, 2 ^ 23 + b % 2 ^ 23, by omega, by omega, by omega, by omega⟩
        obtain ⟨d, rfl⟩ := Nat.exists_eq_add_of_le hss
        exact ⟨k' * 2 ^ d, by rw [magnitudeOf_scaled _ k' hk1 hk2.le, pow_add]; ring⟩
      have h1 : f32MagnitudeOf b < f32MagnitudeOf (s * 2 ^ 23 + 2 ^ 23) := magnitudeOf_strictMono (by omega)
      rw [magnitudeOf_scaled s _ le_rfl (by norm_num)] at h1
      have hlo := (key (2 ^ 23)).1
      have hge' : ((2 ^ 23 * 2 ^ s : Nat) : Int) * den ≤ num := by
        rw [pow_add] at hge; exact_mod_cast hge
      have hstrict : |((2 ^ 23 * 2 ^ s : Nat) : Int) * den - num| < |(f32MagnitudeOf b : Int) * den - num| := by
        have hd' : (0 : Int) < den := by exact_mod_cast hd
        have h1' : (f32MagnitudeOf b : Int) < ((2 ^ 23 * 2 ^ s : Nat) : Int) := by exact_mod_cast h1
        have h5 : (f32MagnitudeOf b : Int) * den < ((2 ^ 23 * 2 ^ s : Nat) : Int) * den :=
          mul_lt_mul_of_pos_right h1' hd'
        rw [abs_of_nonpos (by linarith), abs_of_nonpos (by linarith)]
        linarith
      refine ⟨by linarith, fun _ heq => ?_⟩
      linarith

/-! ### Packing -/
/-- The pattern of a sign and finite magnitude bits, as a number. -/
theorem pack_toNat (neg : Bool) (bits : Nat) (h : bits < f32Infinity) :
    (f32Pack neg bits).toNat = (if neg then 2 ^ 31 else 0) + bits := by
  unfold f32Pack f32Infinity at *
  rw [BitVec.toNat_ofNat, Nat.mod_eq_of_lt]
  split <;> omega

/-- The magnitude bits of a packed pattern. -/
theorem pack_magnitudeBits (neg : Bool) (bits : Nat) (h : bits < f32Infinity) :
    f32MagnitudeBits (f32Pack neg bits) = bits := by
  unfold f32MagnitudeBits
  rw [pack_toNat neg bits h]
  unfold f32Infinity at h
  split <;> omega

/-- The sign of a packed pattern. -/
theorem pack_sign (neg : Bool) (bits : Nat) (h : bits < f32Infinity) :
    f32Sign (f32Pack neg bits) = neg := by
  unfold f32Sign
  rw [BitVec.msb_eq_decide, pack_toNat neg bits h]
  unfold f32Infinity at h
  cases neg
  · simp; omega
  · simp

/-- A packed pattern of finite magnitude bits is finite. -/
theorem pack_isFinite (neg : Bool) (bits : Nat) (h : bits < f32Infinity) :
    f32IsFinite (f32Pack neg bits) = true := by
  simp [f32IsFinite, pack_magnitudeBits neg bits h, h]

/-- The value of a packed pattern. -/
theorem pack_scaled (neg : Bool) (bits : Nat) (h : bits < f32Infinity) :
    f32Scaled (f32Pack neg bits) = if neg then - (f32MagnitudeOf bits : Int) else f32MagnitudeOf bits := by
  simp [f32Scaled, f32Magnitude, pack_sign neg bits h, pack_magnitudeBits neg bits h]

/-- The magnitude is the absolute value. -/
theorem scaled_natAbs (x : F32) : (f32Scaled x).natAbs = f32Magnitude x := by
  unfold f32Scaled; split <;> simp

/-- The magnitude is the absolute value, as an integer. -/
theorem scaled_abs (x : F32) : |f32Scaled x| = f32Magnitude x := by
  unfold f32Scaled; split <;> simp

/-- Only the two zeros have magnitude 0. -/
theorem magnitude_zero_iff (x : F32) : f32Magnitude x = 0 ↔ f32MagnitudeBits x = 0 := by
  unfold f32Magnitude
  constructor
  · intro h
    by_contra hne
    have := magnitudeOf_strictMono (Nat.pos_of_ne_zero hne)
    omega
  · intro h; rw [h]; rfl

/-- A rounded value lies between any two finite numbers the exact value lies between, and is then finite. -/
theorem round_between (op : FloatOp) (a b lo hi : F32) (neg : Bool) (num den : Nat) (hd : 0 < den)
    (hlo : f32IsFinite lo = true) (hhi : f32IsFinite hi = true)
    (h1 : f32Scaled lo * den ≤ if neg then -(num : Int) else num)
    (h2 : (if neg then -(num : Int) else num) ≤ f32Scaled hi * den) :
    f32IsFinite (f32Round op a b neg num den) = true ∧
    f32Scaled lo ≤ f32Scaled (f32Round op a b neg num den) ∧
    f32Scaled (f32Round op a b neg num den) ≤ f32Scaled hi ∧
    (f32Scaled (f32Round op a b neg num den) = if neg then -(f32MagnitudeOf (f32RoundBits num den) : Int) else f32MagnitudeOf (f32RoundBits num den)) := by
  have hd' : (0 : Int) < den := by exact_mod_cast hd
  have hfl : f32MagnitudeBits lo < f32Infinity := by simpa [f32IsFinite] using hlo
  have hfh : f32MagnitudeBits hi < f32Infinity := by simpa [f32IsFinite] using hhi
  have hml : (f32Scaled lo : Int) = f32Magnitude lo ∨ (f32Scaled lo : Int) = -f32Magnitude lo := by
    unfold f32Scaled; split <;> simp
  have hmh : (f32Scaled hi : Int) = f32Magnitude hi ∨ (f32Scaled hi : Int) = -f32Magnitude hi := by
    unfold f32Scaled; split <;> simp
  cases neg
  · simp only [Bool.false_eq_true, if_false] at h1 h2
    have hm : (num : Int) ≤ (f32Magnitude hi : Int) * den := by
      rcases hmh with h | h <;> rw [h] at h2
      · exact h2
      · have : (0 : Int) ≤ (f32Magnitude hi : Int) * den := by positivity
        linarith
    have hb : f32RoundBits num den ≤ f32MagnitudeBits hi := roundBits_le _ _ _ hd (by exact_mod_cast hm)
    have hfin : f32RoundBits num den < f32Infinity := by omega
    unfold f32Round
    rw [if_pos hfin, pack_scaled _ _ hfin]
    refine ⟨pack_isFinite _ _ hfin, ?_, ?_, rfl⟩
    · simp only [Bool.false_eq_true, if_false]
      rcases hml with h | h
      · rw [h] at h1 ⊢
        have : f32MagnitudeBits lo ≤ f32RoundBits num den := le_roundBits _ _ _ hd (by exact_mod_cast h1)
        exact_mod_cast magnitudeOf_strictMono.monotone this
      · rw [h]
        have : (0:Int) ≤ f32Magnitude lo := by positivity
        have : (0:Int) ≤ f32MagnitudeOf (f32RoundBits num den) := by positivity
        linarith
    · simp only [Bool.false_eq_true, if_false]
      rcases hmh with h | h
      · rw [h]; exact_mod_cast magnitudeOf_strictMono.monotone hb
      · rw [h] at h2 ⊢
        have h3 : (0 : Int) ≤ num := by positivity
        have h0 : (f32Magnitude hi : Int) * den ≤ 0 := by linarith
        have h4 : f32Magnitude hi = 0 := by
          have : f32Magnitude hi * den ≤ 0 := by exact_mod_cast h0
          rcases Nat.mul_eq_zero.1 (Nat.le_zero.1 this) with h | h <;> omega
        have h5 : f32MagnitudeBits hi = 0 := (magnitude_zero_iff hi).1 h4
        have h6 : f32RoundBits num den = 0 := by omega
        rw [h6, h4]; decide
  · simp only [if_true] at h1 h2
    have hm : (num : Int) ≤ (f32Magnitude lo : Int) * den := by
      rcases hml with h | h <;> rw [h] at h1
      · have : (0 : Int) ≤ (f32Magnitude lo : Int) * den := by positivity
        linarith
      · linarith
    have hb : f32RoundBits num den ≤ f32MagnitudeBits lo := roundBits_le _ _ _ hd (by exact_mod_cast hm)
    have hfin : f32RoundBits num den < f32Infinity := by omega
    unfold f32Round
    rw [if_pos hfin, pack_scaled _ _ hfin]
    refine ⟨pack_isFinite _ _ hfin, ?_, ?_, rfl⟩
    · simp only [if_true]
      rcases hml with h | h
      · rw [h] at h1 ⊢
        have h3 : (0 : Int) ≤ num := by positivity
        have h0 : (f32Magnitude lo : Int) * den ≤ 0 := by linarith
        have h4 : f32Magnitude lo = 0 := by
          have : f32Magnitude lo * den ≤ 0 := by exact_mod_cast h0
          rcases Nat.mul_eq_zero.1 (Nat.le_zero.1 this) with h | h <;> omega
        have h5 : f32MagnitudeBits lo = 0 := (magnitude_zero_iff lo).1 h4
        have h6 : f32RoundBits num den = 0 := by omega
        rw [h6, h4]; decide
      · rw [h]
        have := magnitudeOf_strictMono.monotone hb
        have : (f32MagnitudeOf (f32RoundBits num den) : Int) ≤ f32Magnitude lo := by exact_mod_cast this
        linarith
    · simp only [if_true]
      rcases hmh with h | h
      · rw [h]
        have : (0:Int) ≤ f32Magnitude hi := by positivity
        have : (0:Int) ≤ f32MagnitudeOf (f32RoundBits num den) := by positivity
        linarith
      · rw [h] at h2 ⊢
        have : f32MagnitudeBits hi ≤ f32RoundBits num den := by
          apply le_roundBits _ _ _ hd
          have : (f32Magnitude hi : Int) * den ≤ num := by linarith
          exact_mod_cast this
        have := magnitudeOf_strictMono.monotone this
        have : (f32Magnitude hi : Int) ≤ f32MagnitudeOf (f32RoundBits num den) := by exact_mod_cast this
        linarith

/-- `fadd` lies between any two finite numbers the exact sum lies between. -/
theorem fadd_between (a b lo hi : F32) (ha : f32IsFinite a = true) (hb : f32IsFinite b = true)
    (hlo : f32IsFinite lo = true) (hhi : f32IsFinite hi = true)
    (h1 : f32Scaled lo ≤ f32Scaled a + f32Scaled b) (h2 : f32Scaled a + f32Scaled b ≤ f32Scaled hi) :
    f32IsFinite (fadd a b) = true ∧ f32Scaled lo ≤ f32Scaled (fadd a b) ∧ f32Scaled (fadd a b) ≤ f32Scaled hi := by
  unfold fadd f32RoundSum
  rw [if_pos (by simp [ha, hb])]
  split
  · rename_i hz
    have h0 : (0:Nat) < f32Infinity := by decide
    refine ⟨pack_isFinite _ _ h0, ?_⟩
    rw [pack_scaled _ _ h0, show f32MagnitudeOf 0 = 0 from rfl]
    simp only [Nat.cast_zero, neg_zero, ite_self]
    omega
  · have e : (if decide (f32Scaled a + f32Scaled b < 0) = true then -((f32Scaled a + f32Scaled b).natAbs : Int) else ((f32Scaled a + f32Scaled b).natAbs : Int)) = f32Scaled a + f32Scaled b := by
      split <;> rename_i h <;> simp at h <;> omega
    have := round_between .add a b lo hi (decide (f32Scaled a + f32Scaled b < 0)) (f32Scaled a + f32Scaled b).natAbs 1 (by norm_num) hlo hhi
      (by rw [e]; simpa using h1) (by rw [e]; simpa using h2)
    exact ⟨this.1, this.2.1, this.2.2.1⟩

/-- `fsub` lies between any two finite numbers the exact difference lies between. -/
theorem fsub_between (a b lo hi : F32) (ha : f32IsFinite a = true) (hb : f32IsFinite b = true)
    (hlo : f32IsFinite lo = true) (hhi : f32IsFinite hi = true)
    (h1 : f32Scaled lo ≤ f32Scaled a - f32Scaled b) (h2 : f32Scaled a - f32Scaled b ≤ f32Scaled hi) :
    f32IsFinite (fsub a b) = true ∧ f32Scaled lo ≤ f32Scaled (fsub a b) ∧ f32Scaled (fsub a b) ≤ f32Scaled hi := by
  unfold fsub f32RoundSum
  rw [if_pos (by simp [ha, hb])]
  split
  · rename_i hz
    have h0 : (0:Nat) < f32Infinity := by decide
    refine ⟨pack_isFinite _ _ h0, ?_⟩
    rw [pack_scaled _ _ h0, show f32MagnitudeOf 0 = 0 from rfl]
    simp only [Nat.cast_zero, neg_zero, ite_self]
    omega
  · have e : (if decide (f32Scaled a - f32Scaled b < 0) = true then -((f32Scaled a - f32Scaled b).natAbs : Int) else ((f32Scaled a - f32Scaled b).natAbs : Int)) = f32Scaled a - f32Scaled b := by
      split <;> rename_i h <;> simp at h <;> omega
    have := round_between .sub a b lo hi (decide (f32Scaled a - f32Scaled b < 0)) (f32Scaled a - f32Scaled b).natAbs 1 (by norm_num) hlo hhi
      (by rw [e]; simpa using h1) (by rw [e]; simpa using h2)
    exact ⟨this.1, this.2.1, this.2.2.1⟩

/-- Sign and magnitude of an exact product. -/
theorem signed_product (a b : F32) :
    (if (f32Sign a != f32Sign b) = true then -((f32Magnitude a * f32Magnitude b : Nat) : Int) else ((f32Magnitude a * f32Magnitude b : Nat) : Int))
      = f32Scaled a * f32Scaled b := by
  unfold f32Scaled
  cases f32Sign a <;> cases f32Sign b <;> simp

/-- The unit is positive. -/
theorem unit_pos : 0 < f32Unit := by unfold f32Unit; positivity

/-- `fmul` lies between any two finite numbers the exact product lies between. -/
theorem fmul_between (a b lo hi : F32) (ha : f32IsFinite a = true) (hb : f32IsFinite b = true)
    (hlo : f32IsFinite lo = true) (hhi : f32IsFinite hi = true)
    (h1 : f32Scaled lo * f32Unit ≤ f32Scaled a * f32Scaled b) (h2 : f32Scaled a * f32Scaled b ≤ f32Scaled hi * f32Unit) :
    f32IsFinite (fmul a b) = true ∧ f32Scaled lo ≤ f32Scaled (fmul a b) ∧ f32Scaled (fmul a b) ≤ f32Scaled hi := by
  unfold fmul
  rw [if_pos (by simp [ha, hb])]
  rw [← signed_product] at h1 h2
  have := round_between .mul a b lo hi _ _ f32Unit unit_pos hlo hhi h1 h2
  exact ⟨this.1, this.2.1, this.2.2.1⟩

/-- `fdiv` by a positive number lies between any two finite numbers the exact quotient lies between. -/
theorem fdiv_between (a b lo hi : F32) (ha : f32IsFinite a = true) (hb : f32IsFinite b = true)
    (hb0 : 0 < f32Scaled b)
    (hlo : f32IsFinite lo = true) (hhi : f32IsFinite hi = true)
    (h1 : f32Scaled lo * f32Scaled b ≤ f32Scaled a * f32Unit) (h2 : f32Scaled a * f32Unit ≤ f32Scaled hi * f32Scaled b) :
    f32IsFinite (fdiv a b) = true ∧ f32Scaled lo ≤ f32Scaled (fdiv a b) ∧ f32Scaled (fdiv a b) ≤ f32Scaled hi := by
  have hs : f32Sign b = false ∧ f32Scaled b = f32Magnitude b := by
    unfold f32Scaled at hb0 ⊢
    cases hsb : f32Sign b
    · simp
    · rw [hsb, if_pos rfl] at hb0; omega
  have hm : 0 < f32Magnitude b := by rw [hs.2] at hb0; exact_mod_cast hb0
  unfold fdiv
  rw [if_pos (by simp [ha, hb]; omega)]
  have e : (if (f32Sign a != f32Sign b) = true then -((f32Magnitude a * f32Unit : Nat) : Int) else ((f32Magnitude a * f32Unit : Nat) : Int)) = f32Scaled a * f32Unit := by
    rw [hs.1]; unfold f32Scaled; cases f32Sign a <;> simp
  rw [hs.2, ← e] at h1 h2
  have := round_between .div a b lo hi _ _ _ hm hlo hhi h1 h2
  exact ⟨this.1, this.2.1, this.2.2.1⟩

/-- A value that is not negative is its magnitude. -/
theorem scaled_of_nonneg (x : F32) (h : 0 ≤ f32Scaled x) : f32Scaled x = f32Magnitude x := by
  unfold f32Scaled at *
  split at h <;> rename_i hs
  · rw [if_pos hs]; omega
  · rw [if_neg hs]

/-- The conversion lies between any two numbers the integer lies between. -/
theorem u32ToF32_between (n : BitVec 32) (lo hi : F32) 
    (hhi : f32IsFinite hi = true)
    (h1 : f32Scaled lo ≤ n.toNat * f32Unit) (h2 : (n.toNat * f32Unit : Nat) ≤ f32Scaled hi) :
    f32IsFinite (u32ToF32 n) = true ∧ f32Scaled lo ≤ f32Scaled (u32ToF32 n) ∧ f32Scaled (u32ToF32 n) ≤ f32Scaled hi := by
  have hh := scaled_of_nonneg hi (le_trans (by positivity) h2)
  rw [hh] at h2
  have hb : f32RoundBits (n.toNat * f32Unit) 1 ≤ f32MagnitudeBits hi :=
    roundBits_le _ _ _ (by norm_num) (by rw [Nat.mul_one]; exact_mod_cast h2)
  have hfh : f32MagnitudeBits hi < f32Infinity := by simpa [f32IsFinite] using hhi
  have hfin : f32RoundBits (n.toNat * f32Unit) 1 < f32Infinity := by omega
  unfold u32ToF32
  rw [pack_scaled _ _ hfin]
  refine ⟨pack_isFinite _ _ hfin, ?_, ?_⟩
  · simp only [Bool.false_eq_true, if_false]
    rcases le_or_gt (f32Scaled lo) 0 with h | h
    · exact le_trans h (by positivity)
    · have hl := scaled_of_nonneg lo h.le
      rw [hl] at h1 ⊢
      have : f32MagnitudeBits lo ≤ f32RoundBits (n.toNat * f32Unit) 1 :=
        le_roundBits _ _ _ (by norm_num) (by rw [Nat.mul_one]; exact_mod_cast h1)
      exact_mod_cast magnitudeOf_strictMono.monotone this
  · simp only [Bool.false_eq_true, if_false]
    rw [hh]
    exact_mod_cast magnitudeOf_strictMono.monotone hb

/-- Nothing rounds to nothing. -/
theorem roundBits_zero (den : Nat) (hd : 0 < den) : f32RoundBits 0 den = 0 := by
  have := roundBits_le 0 den 0 hd (by simp)
  omega

/-- Rounding keeps the order of exact values. -/
theorem roundBits_mono {n1 n2 den : Nat} (hd : 0 < den) (h : n1 ≤ n2) :
    f32RoundBits n1 den ≤ f32RoundBits n2 den := by
  by_contra hc
  push Not at hc
  have a1 : ¬ f32MagnitudeOf (f32RoundBits n1 den) * den ≤ n2 := fun h => by
    have := le_roundBits _ _ _ hd h; omega
  have a2 : ¬ n1 ≤ f32MagnitudeOf (f32RoundBits n2 den) * den := fun h => by
    have := roundBits_le _ _ _ hd h; omega
  have b1 := (roundBits_nearest n1 den (f32RoundBits n2 den) hd).1
  have b2 := (roundBits_nearest n2 den (f32RoundBits n1 den) hd).1
  have : n1 ≠ n2 := by rintro rfl; omega
  generalize f32MagnitudeOf (f32RoundBits n1 den) = m1 at *
  generalize f32MagnitudeOf (f32RoundBits n2 den) = m2 at *
  rw [← Nat.cast_mul, ← Nat.cast_mul] at b1 b2
  generalize m1 * den = x at *
  generalize m2 * den = y at *
  rw [abs_of_nonneg (by omega), abs_of_nonpos (by omega)] at b1
  rw [abs_of_nonpos (by omega), abs_of_nonneg (by omega)] at b2
  omega

/-- Every 24-bit significand at a shift up to 252 is the value of a finite binary32. -/
theorem exists_scaled_eq (k s : Nat) (h1 : 2 ^ 23 ≤ k) (h2 : k ≤ 2 ^ 24) (hs : s ≤ 252) :
    ∃ x : F32, f32IsFinite x = true ∧ f32Scaled x = k * 2 ^ s := by
  have hb : s * 2 ^ 23 + k < f32Infinity := by unfold f32Infinity; omega
  refine ⟨f32Pack false (s * 2 ^ 23 + k), pack_isFinite _ _ hb, ?_⟩
  rw [pack_scaled _ _ hb, magnitudeOf_scaled s k h1 h2]
  simp

/-! ### The constants -/

/-- `+0.0` is finite and of value 0. -/
theorem zero_value : f32IsFinite f32Zero = true ∧ f32Scaled f32Zero = 0 := by decide +kernel

/-- `1.0` is finite and of value 1. -/
theorem one_value : f32IsFinite f32One = true ∧ f32Scaled f32One = 2 ^ 149 := by decide +kernel

/-- `100.0` is finite and of value 100. -/
theorem hundred_value : f32IsFinite f32Hundred = true ∧ f32Scaled f32Hundred = 100 * 2 ^ 149 := by decide +kernel

end Sys2Proof.Machine
end

