-- ==== Sys2Proof/Laws/Operands.lean ====
section
/-!
SUPPORT. The laws of operand assembly (40_tick_extender.md R101) and of the range test of a well-formed
configuration (00_scope.md R9).
-/

namespace Sys2Proof.Machine

open Sys2Proof

/-- A tick position as a number (R101). -/
theorem tickpos_toNat (roll hw : Half) : (tickpos roll hw).toNat = roll.toNat * 2 ^ 16 + hw.toNat := by
  have e : (tickpos roll hw).toNat = (roll ++ hw).toNat := rfl
  rw [e, BitVec.toNat_append, ← Nat.shiftLeft_add_eq_or_of_lt hw.isLt, Nat.shiftLeft_eq]

/-- The range test holds exactly of finite numbers in order. -/
theorem f32Within_iff (lo hi x : F32) :
    f32Within lo hi x = true ↔
      f32IsFinite lo = true ∧ f32IsFinite hi = true ∧ f32IsFinite x = true ∧
        f32Scaled lo ≤ f32Scaled x ∧ f32Scaled x ≤ f32Scaled hi := by
  unfold f32Within
  by_cases h1 : f32IsFinite lo = true <;> by_cases h2 : f32IsFinite hi = true <;>
    by_cases h3 : f32IsFinite x = true <;> simp [h1, h2, h3, flt, fgt]

end Sys2Proof.Machine
end

