-- ==== Sys2Proof/Laws/State.lean ====
section
/-!
SUPPORT. The small lemmas of every named update of the state: what it leaves in each field, true by rfl. Later
proofs rewrite with these and unfold no record update.
-/

namespace Sys2Proof.Machine

open Sys2Proof

/-! ### bumpRoll -/

@[simp] theorem bumpRoll_roll (s : State) : (bumpRoll s).roll = s.roll + 1#16 := rfl
@[simp] theorem bumpRoll_motor0 (s : State) : (bumpRoll s).motor0 = s.motor0 := rfl
@[simp] theorem bumpRoll_motor1 (s : State) : (bumpRoll s).motor1 = s.motor1 := rfl
@[simp] theorem bumpRoll_dir (s : State) : (bumpRoll s).dir = s.dir := rfl
@[simp] theorem bumpRoll_elapsed (s : State) : (bumpRoll s).elapsed = s.elapsed := rfl
@[simp] theorem bumpRoll_pending (s : State) : (bumpRoll s).pending = s.pending := rfl
@[simp] theorem bumpRoll_cmdReady (s : State) : (bumpRoll s).cmdReady = s.cmdReady := rfl
@[simp] theorem bumpRoll_tickReady (s : State) : (bumpRoll s).tickReady = s.tickReady := rfl
@[simp] theorem bumpRoll_running (s : State) : (bumpRoll s).running = s.running := rfl
@[simp] theorem bumpRoll_phase (s : State) : (bumpRoll s).phase = s.phase := rfl
@[simp] theorem bumpRoll_halted (s : State) : (bumpRoll s).halted = s.halted := rfl
@[simp] theorem bumpRoll_hcause (s : State) : (bumpRoll s).hcause = s.hcause := rfl
@[simp] theorem bumpRoll_cfg (s : State) : (bumpRoll s).cfg = s.cfg := rfl
@[simp] theorem bumpRoll_emitted (s : State) : (bumpRoll s).emitted = s.emitted := rfl
@[simp] theorem bumpRoll_port (s : State) : (bumpRoll s).port = s.port := rfl

/-! ### raiseTick -/

@[simp] theorem raiseTick_roll (s : State) : (raiseTick s).roll = s.roll := rfl
@[simp] theorem raiseTick_motor0 (s : State) : (raiseTick s).motor0 = s.motor0 := rfl
@[simp] theorem raiseTick_motor1 (s : State) : (raiseTick s).motor1 = s.motor1 := rfl
@[simp] theorem raiseTick_dir (s : State) : (raiseTick s).dir = s.dir := rfl
@[simp] theorem raiseTick_elapsed (s : State) : (raiseTick s).elapsed = s.elapsed := rfl
@[simp] theorem raiseTick_pending (s : State) : (raiseTick s).pending = s.pending := rfl
@[simp] theorem raiseTick_cmdReady (s : State) : (raiseTick s).cmdReady = s.cmdReady := rfl
@[simp] theorem raiseTick_tickReady (s : State) : (raiseTick s).tickReady = true := rfl
@[simp] theorem raiseTick_running (s : State) : (raiseTick s).running = s.running := rfl
@[simp] theorem raiseTick_phase (s : State) : (raiseTick s).phase = s.phase := rfl
@[simp] theorem raiseTick_halted (s : State) : (raiseTick s).halted = s.halted := rfl
@[simp] theorem raiseTick_hcause (s : State) : (raiseTick s).hcause = s.hcause := rfl
@[simp] theorem raiseTick_cfg (s : State) : (raiseTick s).cfg = s.cfg := rfl
@[simp] theorem raiseTick_emitted (s : State) : (raiseTick s).emitted = s.emitted := rfl
@[simp] theorem raiseTick_port (s : State) : (raiseTick s).port = s.port := rfl

/-! ### clearTick -/

@[simp] theorem clearTick_roll (s : State) : (clearTick s).roll = s.roll := rfl
@[simp] theorem clearTick_motor0 (s : State) : (clearTick s).motor0 = s.motor0 := rfl
@[simp] theorem clearTick_motor1 (s : State) : (clearTick s).motor1 = s.motor1 := rfl
@[simp] theorem clearTick_dir (s : State) : (clearTick s).dir = s.dir := rfl
@[simp] theorem clearTick_elapsed (s : State) : (clearTick s).elapsed = s.elapsed := rfl
@[simp] theorem clearTick_pending (s : State) : (clearTick s).pending = s.pending := rfl
@[simp] theorem clearTick_cmdReady (s : State) : (clearTick s).cmdReady = s.cmdReady := rfl
@[simp] theorem clearTick_tickReady (s : State) : (clearTick s).tickReady = false := rfl
@[simp] theorem clearTick_running (s : State) : (clearTick s).running = s.running := rfl
@[simp] theorem clearTick_phase (s : State) : (clearTick s).phase = s.phase := rfl
@[simp] theorem clearTick_halted (s : State) : (clearTick s).halted = s.halted := rfl
@[simp] theorem clearTick_hcause (s : State) : (clearTick s).hcause = s.hcause := rfl
@[simp] theorem clearTick_cfg (s : State) : (clearTick s).cfg = s.cfg := rfl
@[simp] theorem clearTick_emitted (s : State) : (clearTick s).emitted = s.emitted := rfl
@[simp] theorem clearTick_port (s : State) : (clearTick s).port = s.port := rfl

/-! ### fillSlot -/

@[simp] theorem fillSlot_roll (s : State) (b : Byte) : (fillSlot b s).roll = s.roll := rfl
@[simp] theorem fillSlot_motor0 (s : State) (b : Byte) : (fillSlot b s).motor0 = s.motor0 := rfl
@[simp] theorem fillSlot_motor1 (s : State) (b : Byte) : (fillSlot b s).motor1 = s.motor1 := rfl
@[simp] theorem fillSlot_dir (s : State) (b : Byte) : (fillSlot b s).dir = s.dir := rfl
@[simp] theorem fillSlot_elapsed (s : State) (b : Byte) : (fillSlot b s).elapsed = s.elapsed := rfl
@[simp] theorem fillSlot_pending (s : State) (b : Byte) : (fillSlot b s).pending = some b := rfl
@[simp] theorem fillSlot_cmdReady (s : State) (b : Byte) : (fillSlot b s).cmdReady = true := rfl
@[simp] theorem fillSlot_tickReady (s : State) (b : Byte) : (fillSlot b s).tickReady = s.tickReady := rfl
@[simp] theorem fillSlot_running (s : State) (b : Byte) : (fillSlot b s).running = s.running := rfl
@[simp] theorem fillSlot_phase (s : State) (b : Byte) : (fillSlot b s).phase = s.phase := rfl
@[simp] theorem fillSlot_halted (s : State) (b : Byte) : (fillSlot b s).halted = s.halted := rfl
@[simp] theorem fillSlot_hcause (s : State) (b : Byte) : (fillSlot b s).hcause = s.hcause := rfl
@[simp] theorem fillSlot_cfg (s : State) (b : Byte) : (fillSlot b s).cfg = s.cfg := rfl
@[simp] theorem fillSlot_emitted (s : State) (b : Byte) : (fillSlot b s).emitted = s.emitted := rfl
@[simp] theorem fillSlot_port (s : State) (b : Byte) : (fillSlot b s).port = s.port := rfl

/-! ### emptySlot -/

@[simp] theorem emptySlot_roll (s : State) : (emptySlot s).roll = s.roll := rfl
@[simp] theorem emptySlot_motor0 (s : State) : (emptySlot s).motor0 = s.motor0 := rfl
@[simp] theorem emptySlot_motor1 (s : State) : (emptySlot s).motor1 = s.motor1 := rfl
@[simp] theorem emptySlot_dir (s : State) : (emptySlot s).dir = s.dir := rfl
@[simp] theorem emptySlot_elapsed (s : State) : (emptySlot s).elapsed = s.elapsed := rfl
@[simp] theorem emptySlot_pending (s : State) : (emptySlot s).pending = none := rfl
@[simp] theorem emptySlot_cmdReady (s : State) : (emptySlot s).cmdReady = false := rfl
@[simp] theorem emptySlot_tickReady (s : State) : (emptySlot s).tickReady = s.tickReady := rfl
@[simp] theorem emptySlot_running (s : State) : (emptySlot s).running = s.running := rfl
@[simp] theorem emptySlot_phase (s : State) : (emptySlot s).phase = s.phase := rfl
@[simp] theorem emptySlot_halted (s : State) : (emptySlot s).halted = s.halted := rfl
@[simp] theorem emptySlot_hcause (s : State) : (emptySlot s).hcause = s.hcause := rfl
@[simp] theorem emptySlot_cfg (s : State) : (emptySlot s).cfg = s.cfg := rfl
@[simp] theorem emptySlot_emitted (s : State) : (emptySlot s).emitted = s.emitted := rfl
@[simp] theorem emptySlot_port (s : State) : (emptySlot s).port = s.port := rfl

/-! ### startTimer -/

@[simp] theorem startTimer_roll (s : State) : (startTimer s).roll = s.roll := rfl
@[simp] theorem startTimer_motor0 (s : State) : (startTimer s).motor0 = s.motor0 := rfl
@[simp] theorem startTimer_motor1 (s : State) : (startTimer s).motor1 = s.motor1 := rfl
@[simp] theorem startTimer_dir (s : State) : (startTimer s).dir = s.dir := rfl
@[simp] theorem startTimer_elapsed (s : State) : (startTimer s).elapsed = 0#32 := rfl
@[simp] theorem startTimer_pending (s : State) : (startTimer s).pending = s.pending := rfl
@[simp] theorem startTimer_cmdReady (s : State) : (startTimer s).cmdReady = s.cmdReady := rfl
@[simp] theorem startTimer_tickReady (s : State) : (startTimer s).tickReady = s.tickReady := rfl
@[simp] theorem startTimer_running (s : State) : (startTimer s).running = true := rfl
@[simp] theorem startTimer_phase (s : State) : (startTimer s).phase = s.phase := rfl
@[simp] theorem startTimer_halted (s : State) : (startTimer s).halted = s.halted := rfl
@[simp] theorem startTimer_hcause (s : State) : (startTimer s).hcause = s.hcause := rfl
@[simp] theorem startTimer_cfg (s : State) : (startTimer s).cfg = s.cfg := rfl
@[simp] theorem startTimer_emitted (s : State) : (startTimer s).emitted = s.emitted := rfl
@[simp] theorem startTimer_port (s : State) : (startTimer s).port = s.port := rfl

/-! ### stopRunning -/

@[simp] theorem stopRunning_roll (s : State) : (stopRunning s).roll = s.roll := rfl
@[simp] theorem stopRunning_motor0 (s : State) : (stopRunning s).motor0 = s.motor0 := rfl
@[simp] theorem stopRunning_motor1 (s : State) : (stopRunning s).motor1 = s.motor1 := rfl
@[simp] theorem stopRunning_dir (s : State) : (stopRunning s).dir = s.dir := rfl
@[simp] theorem stopRunning_elapsed (s : State) : (stopRunning s).elapsed = s.elapsed := rfl
@[simp] theorem stopRunning_pending (s : State) : (stopRunning s).pending = s.pending := rfl
@[simp] theorem stopRunning_cmdReady (s : State) : (stopRunning s).cmdReady = s.cmdReady := rfl
@[simp] theorem stopRunning_tickReady (s : State) : (stopRunning s).tickReady = s.tickReady := rfl
@[simp] theorem stopRunning_running (s : State) : (stopRunning s).running = false := rfl
@[simp] theorem stopRunning_phase (s : State) : (stopRunning s).phase = s.phase := rfl
@[simp] theorem stopRunning_halted (s : State) : (stopRunning s).halted = s.halted := rfl
@[simp] theorem stopRunning_hcause (s : State) : (stopRunning s).hcause = s.hcause := rfl
@[simp] theorem stopRunning_cfg (s : State) : (stopRunning s).cfg = s.cfg := rfl
@[simp] theorem stopRunning_emitted (s : State) : (stopRunning s).emitted = s.emitted := rfl
@[simp] theorem stopRunning_port (s : State) : (stopRunning s).port = s.port := rfl

/-! ### raiseFatal -/

@[simp] theorem raiseFatal_roll (s : State) (c : FatalCause) : (raiseFatal c s).roll = s.roll := rfl
@[simp] theorem raiseFatal_motor0 (s : State) (c : FatalCause) : (raiseFatal c s).motor0 = s.motor0 := rfl
@[simp] theorem raiseFatal_motor1 (s : State) (c : FatalCause) : (raiseFatal c s).motor1 = s.motor1 := rfl
@[simp] theorem raiseFatal_dir (s : State) (c : FatalCause) : (raiseFatal c s).dir = s.dir := rfl
@[simp] theorem raiseFatal_elapsed (s : State) (c : FatalCause) : (raiseFatal c s).elapsed = s.elapsed := rfl
@[simp] theorem raiseFatal_pending (s : State) (c : FatalCause) : (raiseFatal c s).pending = s.pending := rfl
@[simp] theorem raiseFatal_cmdReady (s : State) (c : FatalCause) : (raiseFatal c s).cmdReady = s.cmdReady := rfl
@[simp] theorem raiseFatal_tickReady (s : State) (c : FatalCause) : (raiseFatal c s).tickReady = s.tickReady := rfl
@[simp] theorem raiseFatal_running (s : State) (c : FatalCause) : (raiseFatal c s).running = s.running := rfl
@[simp] theorem raiseFatal_phase (s : State) (c : FatalCause) : (raiseFatal c s).phase = s.phase := rfl
@[simp] theorem raiseFatal_halted (s : State) (c : FatalCause) : (raiseFatal c s).halted = true := rfl
@[simp] theorem raiseFatal_hcause (s : State) (c : FatalCause) : (raiseFatal c s).hcause = c.code := rfl
@[simp] theorem raiseFatal_cfg (s : State) (c : FatalCause) : (raiseFatal c s).cfg = s.cfg := rfl
@[simp] theorem raiseFatal_emitted (s : State) (c : FatalCause) : (raiseFatal c s).emitted = s.emitted := rfl
@[simp] theorem raiseFatal_port (s : State) (c : FatalCause) : (raiseFatal c s).port = s.port := rfl

/-! ### advancePhase -/

@[simp] theorem advancePhase_roll (s : State) : (advancePhase s).roll = s.roll := rfl
@[simp] theorem advancePhase_motor0 (s : State) : (advancePhase s).motor0 = s.motor0 := rfl
@[simp] theorem advancePhase_motor1 (s : State) : (advancePhase s).motor1 = s.motor1 := rfl
@[simp] theorem advancePhase_dir (s : State) : (advancePhase s).dir = s.dir := rfl
@[simp] theorem advancePhase_elapsed (s : State) : (advancePhase s).elapsed = s.elapsed := rfl
@[simp] theorem advancePhase_pending (s : State) : (advancePhase s).pending = s.pending := rfl
@[simp] theorem advancePhase_cmdReady (s : State) : (advancePhase s).cmdReady = s.cmdReady := rfl
@[simp] theorem advancePhase_tickReady (s : State) : (advancePhase s).tickReady = s.tickReady := rfl
@[simp] theorem advancePhase_running (s : State) : (advancePhase s).running = s.running := rfl
@[simp] theorem advancePhase_phase (s : State) : (advancePhase s).phase = BitVec.ofNat 3 ((s.phase.toNat + 1) % 5) := rfl
@[simp] theorem advancePhase_halted (s : State) : (advancePhase s).halted = s.halted := rfl
@[simp] theorem advancePhase_hcause (s : State) : (advancePhase s).hcause = s.hcause := rfl
@[simp] theorem advancePhase_cfg (s : State) : (advancePhase s).cfg = s.cfg := rfl
@[simp] theorem advancePhase_emitted (s : State) : (advancePhase s).emitted = s.emitted := rfl
@[simp] theorem advancePhase_port (s : State) : (advancePhase s).port = s.port := rfl

/-! ### emit -/

@[simp] theorem emit_roll (s : State) (a : OutAction) : (emit a s).roll = s.roll := rfl
@[simp] theorem emit_motor0 (s : State) (a : OutAction) : (emit a s).motor0 = s.motor0 := rfl
@[simp] theorem emit_motor1 (s : State) (a : OutAction) : (emit a s).motor1 = s.motor1 := rfl
@[simp] theorem emit_dir (s : State) (a : OutAction) : (emit a s).dir = s.dir := rfl
@[simp] theorem emit_elapsed (s : State) (a : OutAction) : (emit a s).elapsed = s.elapsed := rfl
@[simp] theorem emit_pending (s : State) (a : OutAction) : (emit a s).pending = s.pending := rfl
@[simp] theorem emit_cmdReady (s : State) (a : OutAction) : (emit a s).cmdReady = s.cmdReady := rfl
@[simp] theorem emit_tickReady (s : State) (a : OutAction) : (emit a s).tickReady = s.tickReady := rfl
@[simp] theorem emit_running (s : State) (a : OutAction) : (emit a s).running = s.running := rfl
@[simp] theorem emit_phase (s : State) (a : OutAction) : (emit a s).phase = s.phase := rfl
@[simp] theorem emit_halted (s : State) (a : OutAction) : (emit a s).halted = s.halted := rfl
@[simp] theorem emit_hcause (s : State) (a : OutAction) : (emit a s).hcause = s.hcause := rfl
@[simp] theorem emit_cfg (s : State) (a : OutAction) : (emit a s).cfg = s.cfg := rfl
@[simp] theorem emit_emitted (s : State) (a : OutAction) : (emit a s).emitted = s.emitted ++ [a] := rfl
@[simp] theorem emit_port (s : State) (a : OutAction) : (emit a s).port = s.port := rfl

/-! ### beginStep -/

@[simp] theorem beginStep_roll (s : State) : (beginStep s).roll = s.roll := rfl
@[simp] theorem beginStep_motor0 (s : State) : (beginStep s).motor0 = s.motor0 := rfl
@[simp] theorem beginStep_motor1 (s : State) : (beginStep s).motor1 = s.motor1 := rfl
@[simp] theorem beginStep_dir (s : State) : (beginStep s).dir = s.dir := rfl
@[simp] theorem beginStep_elapsed (s : State) : (beginStep s).elapsed = s.elapsed := rfl
@[simp] theorem beginStep_pending (s : State) : (beginStep s).pending = s.pending := rfl
@[simp] theorem beginStep_cmdReady (s : State) : (beginStep s).cmdReady = s.cmdReady := rfl
@[simp] theorem beginStep_tickReady (s : State) : (beginStep s).tickReady = s.tickReady := rfl
@[simp] theorem beginStep_running (s : State) : (beginStep s).running = s.running := rfl
@[simp] theorem beginStep_phase (s : State) : (beginStep s).phase = s.phase := rfl
@[simp] theorem beginStep_halted (s : State) : (beginStep s).halted = s.halted := rfl
@[simp] theorem beginStep_hcause (s : State) : (beginStep s).hcause = s.hcause := rfl
@[simp] theorem beginStep_cfg (s : State) : (beginStep s).cfg = s.cfg := rfl
@[simp] theorem beginStep_emitted (s : State) : (beginStep s).emitted = [] := rfl
@[simp] theorem beginStep_port (s : State) : (beginStep s).port = s.port.tail := rfl

/-! ### presentEvent -/

@[simp] theorem presentEvent_roll (s : State) (ev : EventWord) : (presentEvent ev s).roll = s.roll := rfl
@[simp] theorem presentEvent_motor0 (s : State) (ev : EventWord) : (presentEvent ev s).motor0 = s.motor0 := rfl
@[simp] theorem presentEvent_motor1 (s : State) (ev : EventWord) : (presentEvent ev s).motor1 = s.motor1 := rfl
@[simp] theorem presentEvent_dir (s : State) (ev : EventWord) : (presentEvent ev s).dir = s.dir := rfl
@[simp] theorem presentEvent_elapsed (s : State) (ev : EventWord) : (presentEvent ev s).elapsed = s.elapsed := rfl
@[simp] theorem presentEvent_pending (s : State) (ev : EventWord) : (presentEvent ev s).pending = s.pending := rfl
@[simp] theorem presentEvent_cmdReady (s : State) (ev : EventWord) : (presentEvent ev s).cmdReady = s.cmdReady := rfl
@[simp] theorem presentEvent_tickReady (s : State) (ev : EventWord) : (presentEvent ev s).tickReady = s.tickReady := rfl
@[simp] theorem presentEvent_running (s : State) (ev : EventWord) : (presentEvent ev s).running = s.running := rfl
@[simp] theorem presentEvent_phase (s : State) (ev : EventWord) : (presentEvent ev s).phase = s.phase := rfl
@[simp] theorem presentEvent_halted (s : State) (ev : EventWord) : (presentEvent ev s).halted = s.halted := rfl
@[simp] theorem presentEvent_hcause (s : State) (ev : EventWord) : (presentEvent ev s).hcause = s.hcause := rfl
@[simp] theorem presentEvent_cfg (s : State) (ev : EventWord) : (presentEvent ev s).cfg = s.cfg := rfl
@[simp] theorem presentEvent_emitted (s : State) (ev : EventWord) : (presentEvent ev s).emitted = s.emitted := rfl
@[simp] theorem presentEvent_port (s : State) (ev : EventWord) : (presentEvent ev s).port = ev :: s.port := rfl

/-! ### updMotor_m0 -/

@[simp] theorem updMotor_m0_roll (s : State) (f : MotorRegs → MotorRegs) : (s.updMotor .m0 f).roll = s.roll := rfl
@[simp] theorem updMotor_m0_motor0 (s : State) (f : MotorRegs → MotorRegs) : (s.updMotor .m0 f).motor0 = f s.motor0 := rfl
@[simp] theorem updMotor_m0_motor1 (s : State) (f : MotorRegs → MotorRegs) : (s.updMotor .m0 f).motor1 = s.motor1 := rfl
@[simp] theorem updMotor_m0_dir (s : State) (f : MotorRegs → MotorRegs) : (s.updMotor .m0 f).dir = s.dir := rfl
@[simp] theorem updMotor_m0_elapsed (s : State) (f : MotorRegs → MotorRegs) : (s.updMotor .m0 f).elapsed = s.elapsed := rfl
@[simp] theorem updMotor_m0_pending (s : State) (f : MotorRegs → MotorRegs) : (s.updMotor .m0 f).pending = s.pending := rfl
@[simp] theorem updMotor_m0_cmdReady (s : State) (f : MotorRegs → MotorRegs) : (s.updMotor .m0 f).cmdReady = s.cmdReady := rfl
@[simp] theorem updMotor_m0_tickReady (s : State) (f : MotorRegs → MotorRegs) : (s.updMotor .m0 f).tickReady = s.tickReady := rfl
@[simp] theorem updMotor_m0_running (s : State) (f : MotorRegs → MotorRegs) : (s.updMotor .m0 f).running = s.running := rfl
@[simp] theorem updMotor_m0_phase (s : State) (f : MotorRegs → MotorRegs) : (s.updMotor .m0 f).phase = s.phase := rfl
@[simp] theorem updMotor_m0_halted (s : State) (f : MotorRegs → MotorRegs) : (s.updMotor .m0 f).halted = s.halted := rfl
@[simp] theorem updMotor_m0_hcause (s : State) (f : MotorRegs → MotorRegs) : (s.updMotor .m0 f).hcause = s.hcause := rfl
@[simp] theorem updMotor_m0_cfg (s : State) (f : MotorRegs → MotorRegs) : (s.updMotor .m0 f).cfg = s.cfg := rfl
@[simp] theorem updMotor_m0_emitted (s : State) (f : MotorRegs → MotorRegs) : (s.updMotor .m0 f).emitted = s.emitted := rfl
@[simp] theorem updMotor_m0_port (s : State) (f : MotorRegs → MotorRegs) : (s.updMotor .m0 f).port = s.port := rfl

/-! ### updMotor_m1 -/

@[simp] theorem updMotor_m1_roll (s : State) (f : MotorRegs → MotorRegs) : (s.updMotor .m1 f).roll = s.roll := rfl
@[simp] theorem updMotor_m1_motor0 (s : State) (f : MotorRegs → MotorRegs) : (s.updMotor .m1 f).motor0 = s.motor0 := rfl
@[simp] theorem updMotor_m1_motor1 (s : State) (f : MotorRegs → MotorRegs) : (s.updMotor .m1 f).motor1 = f s.motor1 := rfl
@[simp] theorem updMotor_m1_dir (s : State) (f : MotorRegs → MotorRegs) : (s.updMotor .m1 f).dir = s.dir := rfl
@[simp] theorem updMotor_m1_elapsed (s : State) (f : MotorRegs → MotorRegs) : (s.updMotor .m1 f).elapsed = s.elapsed := rfl
@[simp] theorem updMotor_m1_pending (s : State) (f : MotorRegs → MotorRegs) : (s.updMotor .m1 f).pending = s.pending := rfl
@[simp] theorem updMotor_m1_cmdReady (s : State) (f : MotorRegs → MotorRegs) : (s.updMotor .m1 f).cmdReady = s.cmdReady := rfl
@[simp] theorem updMotor_m1_tickReady (s : State) (f : MotorRegs → MotorRegs) : (s.updMotor .m1 f).tickReady = s.tickReady := rfl
@[simp] theorem updMotor_m1_running (s : State) (f : MotorRegs → MotorRegs) : (s.updMotor .m1 f).running = s.running := rfl
@[simp] theorem updMotor_m1_phase (s : State) (f : MotorRegs → MotorRegs) : (s.updMotor .m1 f).phase = s.phase := rfl
@[simp] theorem updMotor_m1_halted (s : State) (f : MotorRegs → MotorRegs) : (s.updMotor .m1 f).halted = s.halted := rfl
@[simp] theorem updMotor_m1_hcause (s : State) (f : MotorRegs → MotorRegs) : (s.updMotor .m1 f).hcause = s.hcause := rfl
@[simp] theorem updMotor_m1_cfg (s : State) (f : MotorRegs → MotorRegs) : (s.updMotor .m1 f).cfg = s.cfg := rfl
@[simp] theorem updMotor_m1_emitted (s : State) (f : MotorRegs → MotorRegs) : (s.updMotor .m1 f).emitted = s.emitted := rfl
@[simp] theorem updMotor_m1_port (s : State) (f : MotorRegs → MotorRegs) : (s.updMotor .m1 f).port = s.port := rfl

/-! ### updMotors -/

@[simp] theorem updMotors_roll (s : State) (f : MotorRegs → MotorRegs) : (s.updMotors f).roll = s.roll := rfl
@[simp] theorem updMotors_motor0 (s : State) (f : MotorRegs → MotorRegs) : (s.updMotors f).motor0 = f s.motor0 := rfl
@[simp] theorem updMotors_motor1 (s : State) (f : MotorRegs → MotorRegs) : (s.updMotors f).motor1 = f s.motor1 := rfl
@[simp] theorem updMotors_dir (s : State) (f : MotorRegs → MotorRegs) : (s.updMotors f).dir = s.dir := rfl
@[simp] theorem updMotors_elapsed (s : State) (f : MotorRegs → MotorRegs) : (s.updMotors f).elapsed = s.elapsed := rfl
@[simp] theorem updMotors_pending (s : State) (f : MotorRegs → MotorRegs) : (s.updMotors f).pending = s.pending := rfl
@[simp] theorem updMotors_cmdReady (s : State) (f : MotorRegs → MotorRegs) : (s.updMotors f).cmdReady = s.cmdReady := rfl
@[simp] theorem updMotors_tickReady (s : State) (f : MotorRegs → MotorRegs) : (s.updMotors f).tickReady = s.tickReady := rfl
@[simp] theorem updMotors_running (s : State) (f : MotorRegs → MotorRegs) : (s.updMotors f).running = s.running := rfl
@[simp] theorem updMotors_phase (s : State) (f : MotorRegs → MotorRegs) : (s.updMotors f).phase = s.phase := rfl
@[simp] theorem updMotors_halted (s : State) (f : MotorRegs → MotorRegs) : (s.updMotors f).halted = s.halted := rfl
@[simp] theorem updMotors_hcause (s : State) (f : MotorRegs → MotorRegs) : (s.updMotors f).hcause = s.hcause := rfl
@[simp] theorem updMotors_cfg (s : State) (f : MotorRegs → MotorRegs) : (s.updMotors f).cfg = s.cfg := rfl
@[simp] theorem updMotors_emitted (s : State) (f : MotorRegs → MotorRegs) : (s.updMotors f).emitted = s.emitted := rfl
@[simp] theorem updMotors_port (s : State) (f : MotorRegs → MotorRegs) : (s.updMotors f).port = s.port := rfl

/-! ### resetRegisters (10_state.md R44) -/

@[simp] theorem resetRegisters_roll (s : State) (c : Collaborator) : (resetRegisters c s).roll = 0#16 := rfl
@[simp] theorem resetRegisters_motor0 (s : State) (c : Collaborator) : (resetRegisters c s).motor0 = MotorRegs.atReset c s.cfg := rfl
@[simp] theorem resetRegisters_motor1 (s : State) (c : Collaborator) : (resetRegisters c s).motor1 = MotorRegs.atReset c s.cfg := rfl
@[simp] theorem resetRegisters_dir (s : State) (c : Collaborator) : (resetRegisters c s).dir = 0#4 := rfl
@[simp] theorem resetRegisters_elapsed (s : State) (c : Collaborator) : (resetRegisters c s).elapsed = 0#32 := rfl
@[simp] theorem resetRegisters_pending (s : State) (c : Collaborator) : (resetRegisters c s).pending = none := rfl
@[simp] theorem resetRegisters_cmdReady (s : State) (c : Collaborator) : (resetRegisters c s).cmdReady = false := rfl
@[simp] theorem resetRegisters_tickReady (s : State) (c : Collaborator) : (resetRegisters c s).tickReady = false := rfl
@[simp] theorem resetRegisters_running (s : State) (c : Collaborator) : (resetRegisters c s).running = false := rfl
@[simp] theorem resetRegisters_phase (s : State) (c : Collaborator) : (resetRegisters c s).phase = 0#3 := rfl
@[simp] theorem resetRegisters_halted (s : State) (c : Collaborator) : (resetRegisters c s).halted = false := rfl
@[simp] theorem resetRegisters_hcause (s : State) (c : Collaborator) : (resetRegisters c s).hcause = 0#2 := rfl
@[simp] theorem resetRegisters_cfg (s : State) (c : Collaborator) : (resetRegisters c s).cfg = s.cfg := rfl
@[simp] theorem resetRegisters_emitted (s : State) (c : Collaborator) : (resetRegisters c s).emitted = s.emitted := rfl
@[simp] theorem resetRegisters_port (s : State) (c : Collaborator) : (resetRegisters c s).port = s.port := rfl

/-! ### One motor's registers -/

@[simp] theorem raiseMeas_rawTick (r : MotorRegs) : (MotorRegs.raiseMeas r).rawTick = r.rawTick := rfl
@[simp] theorem raiseMeas_bufTick (r : MotorRegs) : (MotorRegs.raiseMeas r).bufTick = r.bufTick := rfl
@[simp] theorem raiseMeas_measReady (r : MotorRegs) : (MotorRegs.raiseMeas r).measReady = true := rfl
@[simp] theorem raiseMeas_frps (r : MotorRegs) : (MotorRegs.raiseMeas r).frps = r.frps := rfl
@[simp] theorem raiseMeas_setpoint (r : MotorRegs) : (MotorRegs.raiseMeas r).setpoint = r.setpoint := rfl
@[simp] theorem raiseMeas_pictl (r : MotorRegs) : (MotorRegs.raiseMeas r).pictl = r.pictl := rfl
@[simp] theorem raiseMeas_ocr (r : MotorRegs) : (MotorRegs.raiseMeas r).ocr = r.ocr := rfl

@[simp] theorem clearMeas_rawTick (r : MotorRegs) : (MotorRegs.clearMeas r).rawTick = r.rawTick := rfl
@[simp] theorem clearMeas_bufTick (r : MotorRegs) : (MotorRegs.clearMeas r).bufTick = r.bufTick := rfl
@[simp] theorem clearMeas_measReady (r : MotorRegs) : (MotorRegs.clearMeas r).measReady = false := rfl
@[simp] theorem clearMeas_frps (r : MotorRegs) : (MotorRegs.clearMeas r).frps = r.frps := rfl
@[simp] theorem clearMeas_setpoint (r : MotorRegs) : (MotorRegs.clearMeas r).setpoint = r.setpoint := rfl
@[simp] theorem clearMeas_pictl (r : MotorRegs) : (MotorRegs.clearMeas r).pictl = r.pictl := rfl
@[simp] theorem clearMeas_ocr (r : MotorRegs) : (MotorRegs.clearMeas r).ocr = r.ocr := rfl

@[simp] theorem latch_rawTick (r : MotorRegs) (tick : Tick) : (MotorRegs.latch tick r).rawTick = tick := rfl
@[simp] theorem latch_bufTick (r : MotorRegs) (tick : Tick) : (MotorRegs.latch tick r).bufTick = r.rawTick := rfl
@[simp] theorem latch_measReady (r : MotorRegs) (tick : Tick) : (MotorRegs.latch tick r).measReady = r.measReady := rfl
@[simp] theorem latch_frps (r : MotorRegs) (tick : Tick) : (MotorRegs.latch tick r).frps = r.frps := rfl
@[simp] theorem latch_setpoint (r : MotorRegs) (tick : Tick) : (MotorRegs.latch tick r).setpoint = r.setpoint := rfl
@[simp] theorem latch_pictl (r : MotorRegs) (tick : Tick) : (MotorRegs.latch tick r).pictl = r.pictl := rfl
@[simp] theorem latch_ocr (r : MotorRegs) (tick : Tick) : (MotorRegs.latch tick r).ocr = r.ocr := rfl

@[simp] theorem setSetpoint_rawTick (r : MotorRegs) (v : F32) : (MotorRegs.setSetpoint v r).rawTick = r.rawTick := rfl
@[simp] theorem setSetpoint_bufTick (r : MotorRegs) (v : F32) : (MotorRegs.setSetpoint v r).bufTick = r.bufTick := rfl
@[simp] theorem setSetpoint_measReady (r : MotorRegs) (v : F32) : (MotorRegs.setSetpoint v r).measReady = r.measReady := rfl
@[simp] theorem setSetpoint_frps (r : MotorRegs) (v : F32) : (MotorRegs.setSetpoint v r).frps = r.frps := rfl
@[simp] theorem setSetpoint_setpoint (r : MotorRegs) (v : F32) : (MotorRegs.setSetpoint v r).setpoint = v := rfl
@[simp] theorem setSetpoint_pictl (r : MotorRegs) (v : F32) : (MotorRegs.setSetpoint v r).pictl = r.pictl := rfl
@[simp] theorem setSetpoint_ocr (r : MotorRegs) (v : F32) : (MotorRegs.setSetpoint v r).ocr = r.ocr := rfl

@[simp] theorem shutOff_rawTick (r : MotorRegs) (c : Collaborator) (cfg : Cfg) : (MotorRegs.shutOff c cfg r).rawTick = r.rawTick := rfl
@[simp] theorem shutOff_bufTick (r : MotorRegs) (c : Collaborator) (cfg : Cfg) : (MotorRegs.shutOff c cfg r).bufTick = r.bufTick := rfl
@[simp] theorem shutOff_measReady (r : MotorRegs) (c : Collaborator) (cfg : Cfg) : (MotorRegs.shutOff c cfg r).measReady = r.measReady := rfl
@[simp] theorem shutOff_frps (r : MotorRegs) (c : Collaborator) (cfg : Cfg) : (MotorRegs.shutOff c cfg r).frps = r.frps := rfl
@[simp] theorem shutOff_setpoint (r : MotorRegs) (c : Collaborator) (cfg : Cfg) : (MotorRegs.shutOff c cfg r).setpoint = f32Zero := rfl
@[simp] theorem shutOff_pictl (r : MotorRegs) (c : Collaborator) (cfg : Cfg) : (MotorRegs.shutOff c cfg r).pictl = c.clear r.pictl := rfl
@[simp] theorem shutOff_ocr (r : MotorRegs) (c : Collaborator) (cfg : Cfg) : (MotorRegs.shutOff c cfg r).ocr = cfg.maxc.toNat := rfl

@[simp] theorem piUpdate_rawTick (r : MotorRegs) (c : Collaborator) (cfg : Cfg) : (MotorRegs.piUpdate c cfg r).rawTick = r.rawTick := rfl
@[simp] theorem piUpdate_bufTick (r : MotorRegs) (c : Collaborator) (cfg : Cfg) : (MotorRegs.piUpdate c cfg r).bufTick = r.bufTick := rfl
@[simp] theorem piUpdate_measReady (r : MotorRegs) (c : Collaborator) (cfg : Cfg) : (MotorRegs.piUpdate c cfg r).measReady = r.measReady := rfl
@[simp] theorem piUpdate_frps (r : MotorRegs) (c : Collaborator) (cfg : Cfg) : (MotorRegs.piUpdate c cfg r).frps = r.frps := rfl
@[simp] theorem piUpdate_setpoint (r : MotorRegs) (c : Collaborator) (cfg : Cfg) : (MotorRegs.piUpdate c cfg r).setpoint = r.setpoint := rfl
@[simp] theorem piUpdate_pictl (r : MotorRegs) (c : Collaborator) (cfg : Cfg) : (MotorRegs.piUpdate c cfg r).pictl = (c.advance r.pictl cfg.tS.bits (fsub r.setpoint r.frps)).1 := by
  simp only [MotorRegs.piUpdate]
@[simp] theorem piUpdate_ocr (r : MotorRegs) (c : Collaborator) (cfg : Cfg) : (MotorRegs.piUpdate c cfg r).ocr = compareWrite cfg (dutyToCompare cfg (c.advance r.pictl cfg.tS.bits (fsub r.setpoint r.frps)).2) := by
  simp only [MotorRegs.piUpdate]

@[simp] theorem atReset_rawTick (c : Collaborator) (cfg : Cfg) : (MotorRegs.atReset c cfg).rawTick = 0#32 := rfl
@[simp] theorem atReset_bufTick (c : Collaborator) (cfg : Cfg) : (MotorRegs.atReset c cfg).bufTick = 0#32 := rfl
@[simp] theorem atReset_measReady (c : Collaborator) (cfg : Cfg) : (MotorRegs.atReset c cfg).measReady = false := rfl
@[simp] theorem atReset_frps (c : Collaborator) (cfg : Cfg) : (MotorRegs.atReset c cfg).frps = f32Zero := rfl
@[simp] theorem atReset_setpoint (c : Collaborator) (cfg : Cfg) : (MotorRegs.atReset c cfg).setpoint = f32Zero := rfl
@[simp] theorem atReset_pictl (c : Collaborator) (cfg : Cfg) : (MotorRegs.atReset c cfg).pictl = c.init cfg.kp cfg.kd cfg.kiPeriod cfg.outMin cfg.outMax := rfl
@[simp] theorem atReset_ocr (c : Collaborator) (cfg : Cfg) : (MotorRegs.atReset c cfg).ocr = cfg.maxc.toNat := rfl

/-! ### Updates with a condition -/

@[simp] theorem rpsUpdate_rawTick (r : MotorRegs) (cfg : Cfg) :
    (MotorRegs.rpsUpdate cfg r).rawTick = r.rawTick := by
  unfold MotorRegs.rpsUpdate; split <;> rfl
@[simp] theorem rpsUpdate_bufTick (r : MotorRegs) (cfg : Cfg) :
    (MotorRegs.rpsUpdate cfg r).bufTick = r.bufTick := by
  unfold MotorRegs.rpsUpdate; split <;> rfl
@[simp] theorem rpsUpdate_measReady (r : MotorRegs) (cfg : Cfg) :
    (MotorRegs.rpsUpdate cfg r).measReady = false := by
  unfold MotorRegs.rpsUpdate; split <;> simp_all
@[simp] theorem rpsUpdate_frps (r : MotorRegs) (cfg : Cfg) :
    (MotorRegs.rpsUpdate cfg r).frps = if r.measReady then nextEstimate cfg r.frps r.ticks else r.frps := by
  unfold MotorRegs.rpsUpdate; split <;> simp_all
@[simp] theorem rpsUpdate_setpoint (r : MotorRegs) (cfg : Cfg) :
    (MotorRegs.rpsUpdate cfg r).setpoint = r.setpoint := by
  unfold MotorRegs.rpsUpdate; split <;> rfl
@[simp] theorem rpsUpdate_pictl (r : MotorRegs) (cfg : Cfg) :
    (MotorRegs.rpsUpdate cfg r).pictl = r.pictl := by
  unfold MotorRegs.rpsUpdate; split <;> rfl
@[simp] theorem rpsUpdate_ocr (r : MotorRegs) (cfg : Cfg) :
    (MotorRegs.rpsUpdate cfg r).ocr = r.ocr := by
  unfold MotorRegs.rpsUpdate; split <;> rfl

@[simp] theorem countSample_roll (s : State) : (countSample s).roll = s.roll := by
  unfold countSample; split <;> rfl
@[simp] theorem countSample_motor0 (s : State) : (countSample s).motor0 = s.motor0 := by
  unfold countSample; split <;> rfl
@[simp] theorem countSample_motor1 (s : State) : (countSample s).motor1 = s.motor1 := by
  unfold countSample; split <;> rfl
@[simp] theorem countSample_dir (s : State) : (countSample s).dir = s.dir := by
  unfold countSample; split <;> rfl
@[simp] theorem countSample_elapsed (s : State) : (countSample s).elapsed = if s.running then s.elapsed + 1#32 else s.elapsed := by
  unfold countSample; split <;> rfl
@[simp] theorem countSample_pending (s : State) : (countSample s).pending = s.pending := by
  unfold countSample; split <;> rfl
@[simp] theorem countSample_cmdReady (s : State) : (countSample s).cmdReady = s.cmdReady := by
  unfold countSample; split <;> rfl
@[simp] theorem countSample_tickReady (s : State) : (countSample s).tickReady = s.tickReady := by
  unfold countSample; split <;> rfl
@[simp] theorem countSample_running (s : State) : (countSample s).running = s.running := by
  unfold countSample; split <;> rfl
@[simp] theorem countSample_phase (s : State) : (countSample s).phase = s.phase := by
  unfold countSample; split <;> rfl
@[simp] theorem countSample_halted (s : State) : (countSample s).halted = s.halted := by
  unfold countSample; split <;> rfl
@[simp] theorem countSample_hcause (s : State) : (countSample s).hcause = s.hcause := by
  unfold countSample; split <;> rfl
@[simp] theorem countSample_cfg (s : State) : (countSample s).cfg = s.cfg := by
  unfold countSample; split <;> rfl
@[simp] theorem countSample_emitted (s : State) : (countSample s).emitted = s.emitted := by
  unfold countSample; split <;> rfl
@[simp] theorem countSample_port (s : State) : (countSample s).port = s.port := by
  unfold countSample; split <;> rfl

@[simp] theorem writeDir_roll (s : State) (cls : CommandClass) : (writeDir cls s).roll = s.roll := by
  unfold writeDir; cases cls <;> rfl
@[simp] theorem writeDir_motor0 (s : State) (cls : CommandClass) : (writeDir cls s).motor0 = s.motor0 := by
  unfold writeDir; cases cls <;> rfl
@[simp] theorem writeDir_motor1 (s : State) (cls : CommandClass) : (writeDir cls s).motor1 = s.motor1 := by
  unfold writeDir; cases cls <;> rfl
@[simp] theorem writeDir_dir (s : State) (cls : CommandClass) : (writeDir cls s).dir = (directionOf s.cfg.dirtab cls).getD s.dir := by
  unfold writeDir; cases cls <;> rfl
@[simp] theorem writeDir_elapsed (s : State) (cls : CommandClass) : (writeDir cls s).elapsed = s.elapsed := by
  unfold writeDir; cases cls <;> rfl
@[simp] theorem writeDir_pending (s : State) (cls : CommandClass) : (writeDir cls s).pending = s.pending := by
  unfold writeDir; cases cls <;> rfl
@[simp] theorem writeDir_cmdReady (s : State) (cls : CommandClass) : (writeDir cls s).cmdReady = s.cmdReady := by
  unfold writeDir; cases cls <;> rfl
@[simp] theorem writeDir_tickReady (s : State) (cls : CommandClass) : (writeDir cls s).tickReady = s.tickReady := by
  unfold writeDir; cases cls <;> rfl
@[simp] theorem writeDir_running (s : State) (cls : CommandClass) : (writeDir cls s).running = s.running := by
  unfold writeDir; cases cls <;> rfl
@[simp] theorem writeDir_phase (s : State) (cls : CommandClass) : (writeDir cls s).phase = s.phase := by
  unfold writeDir; cases cls <;> rfl
@[simp] theorem writeDir_halted (s : State) (cls : CommandClass) : (writeDir cls s).halted = s.halted := by
  unfold writeDir; cases cls <;> rfl
@[simp] theorem writeDir_hcause (s : State) (cls : CommandClass) : (writeDir cls s).hcause = s.hcause := by
  unfold writeDir; cases cls <;> rfl
@[simp] theorem writeDir_cfg (s : State) (cls : CommandClass) : (writeDir cls s).cfg = s.cfg := by
  unfold writeDir; cases cls <;> rfl
@[simp] theorem writeDir_emitted (s : State) (cls : CommandClass) : (writeDir cls s).emitted = s.emitted := by
  unfold writeDir; cases cls <;> rfl
@[simp] theorem writeDir_port (s : State) (cls : CommandClass) : (writeDir cls s).port = s.port := by
  unfold writeDir; cases cls <;> rfl

@[simp] theorem startRun_roll (s : State) (cls : CommandClass) : (startRun cls s).roll = s.roll := by
  cases cls <;> rfl
@[simp] theorem startRun_motor0 (s : State) (cls : CommandClass) : (startRun cls s).motor0 = { s.motor0 with setpoint := s.cfg.rpsOn.bits } := by
  cases cls <;> rfl
@[simp] theorem startRun_motor1 (s : State) (cls : CommandClass) : (startRun cls s).motor1 = { s.motor1 with setpoint := s.cfg.rpsOn.bits } := by
  cases cls <;> rfl
@[simp] theorem startRun_dir (s : State) (cls : CommandClass) : (startRun cls s).dir = (directionOf s.cfg.dirtab cls).getD s.dir := by
  cases cls <;> rfl
@[simp] theorem startRun_elapsed (s : State) (cls : CommandClass) : (startRun cls s).elapsed = 0#32 := by
  cases cls <;> rfl
@[simp] theorem startRun_pending (s : State) (cls : CommandClass) : (startRun cls s).pending = none := by
  cases cls <;> rfl
@[simp] theorem startRun_cmdReady (s : State) (cls : CommandClass) : (startRun cls s).cmdReady = false := by
  cases cls <;> rfl
@[simp] theorem startRun_tickReady (s : State) (cls : CommandClass) : (startRun cls s).tickReady = s.tickReady := by
  cases cls <;> rfl
@[simp] theorem startRun_running (s : State) (cls : CommandClass) : (startRun cls s).running = true := by
  cases cls <;> rfl
@[simp] theorem startRun_phase (s : State) (cls : CommandClass) : (startRun cls s).phase = s.phase := by
  cases cls <;> rfl
@[simp] theorem startRun_halted (s : State) (cls : CommandClass) : (startRun cls s).halted = s.halted := by
  cases cls <;> rfl
@[simp] theorem startRun_hcause (s : State) (cls : CommandClass) : (startRun cls s).hcause = s.hcause := by
  cases cls <;> rfl
@[simp] theorem startRun_cfg (s : State) (cls : CommandClass) : (startRun cls s).cfg = s.cfg := by
  cases cls <;> rfl
@[simp] theorem startRun_emitted (s : State) (cls : CommandClass) : (startRun cls s).emitted = s.emitted := by
  cases cls <;> rfl
@[simp] theorem startRun_port (s : State) (cls : CommandClass) : (startRun cls s).port = s.port := by
  cases cls <;> rfl

/-! ### Reading a motor back -/

@[simp] theorem motor_m0 (s : State) : s.motor .m0 = s.motor0 := rfl
@[simp] theorem motor_m1 (s : State) : s.motor .m1 = s.motor1 := rfl

/-- Updating one motor is seen by that motor and by no other. -/
theorem motor_updMotor (s : State) (m n : MotorId) (f : MotorRegs → MotorRegs) :
    (s.updMotor m f).motor n = if m = n then f (s.motor n) else s.motor n := by
  cases m <;> cases n <;> rfl

end Sys2Proof.Machine
end

