-- ==== Sys2Proof/Laws/Ops.lean ====
section
/-!
SUPPORT. For each shared operation, once, everything it can do: the gates, the phase dispatch, the compare
write, and, for each meaning, the states it can answer. Later proofs cite these and unfold no meaning.
-/

namespace Sys2Proof.Machine

open Sys2Proof

/-! ### Gates and results -/

theorem whenLive_of_live {s : State} (h : s.halted = false) (k : State → Result) : whenLive s k = k s := by
  simp [whenLive, h]

theorem whenLive_of_halted {s : State} (h : s.halted = true) (k : State → Result) : whenLive s k = .next s := by
  simp [whenLive, h]

theorem whenIdle_of_idle {s : State} (h : s.halted = false) (hr : s.running = false) (k : State → Result) :
    whenIdle s k = k s := by
  simp [whenIdle, whenLive, h, hr]

theorem whenIdle_of_running {s : State} (hr : s.running = true) (k : State → Result) : whenIdle s k = .next s := by
  simp [whenIdle, whenLive, hr]

/-- A gated operation that answers a next state left a halted core alone or ran on a live one. -/
theorem whenLive_next {s t : State} {k : State → Result} (h : whenLive s k = .next t) :
    (s.halted = true ∧ t = s) ∨ (s.halted = false ∧ k s = .next t) := by
  unfold whenLive at h
  split at h
  · rename_i hh; injection h with h; exact .inl ⟨hh, h.symm⟩
  · rename_i hh; exact .inr ⟨by simpa using hh, h⟩

/-- A command class that answers a next state left a halted or Running core alone or ran on an Idle one. -/
theorem whenIdle_next {s t : State} {k : State → Result} (h : whenIdle s k = .next t) :
    ((s.halted = true ∨ s.running = true) ∧ t = s) ∨ (s.halted = false ∧ s.running = false ∧ k s = .next t) := by
  rcases whenLive_next h with ⟨hh, rfl⟩ | ⟨hh, h⟩
  · exact .inl ⟨.inl hh, rfl⟩
  · split at h
    · rename_i hr; injection h with h; exact .inl ⟨.inr hr, h.symm⟩
    · rename_i hr; exact .inr ⟨hh, by simpa using hr, h⟩

theorem mapNext_next {r : Result} {f : State → State} {t : State} (h : r.mapNext f = .next t) :
    ∃ u, r = .next u ∧ t = f u := by
  cases r <;> simp [Result.mapNext] at h
  exact ⟨_, rfl, h.symm⟩

theorem mapNext_refused {r : Result} {f : State → State} {x : Refusal} (h : r.mapNext f = .refused x) :
    r = .refused x := by
  cases r <;> simp [Result.mapNext] at h
  rw [h]

/-! ### Compare writes -/

/-- A compare register holds what is written to it when that is within its range. -/
theorem compareWrite_of_mem {cfg : Cfg} {z : Int} (h0 : 0 ≤ z) (h1 : z < (2 ^ cfg.ocrW : Nat)) :
    compareWrite cfg z = z.toNat := by
  unfold compareWrite; rw [if_pos ⟨h0, h1⟩]

/-- A compare register holds at most `OCR_W` bits whatever is written to it. -/
theorem compareWrite_lt (cfg : Cfg) (z : Int) : compareWrite cfg z < 2 ^ cfg.ocrW := by
  unfold compareWrite
  split
  · rename_i h; omega
  · exact Nat.mod_lt _ (by positivity)

/-! ### Meanings: the states each can answer -/

theorem execIdle_next {s t : State} (h : execIdle s = .next t) : t = s := by
  injection h with h; exact h.symm

theorem execOvf_next {s t : State} (h : execOvf s = .next t) :
    (s.halted = true ∧ t = s) ∨ (s.halted = false ∧ t = bumpRoll s) := by
  rcases whenLive_next h with h | ⟨hh, h⟩
  · exact .inl h
  · injection h with h; exact .inr ⟨hh, h.symm⟩

theorem execEdge0_next {hw : Half} {s t : State} (h : execEdge0 hw s = .next t) :
    (s.halted = true ∧ t = s) ∨ (s.halted = false ∧ t = capture .m0 hw s) := by
  rcases whenLive_next h with h | ⟨hh, h⟩
  · exact .inl h
  · injection h with h; exact .inr ⟨hh, h.symm⟩

theorem execEdge1_next {hw : Half} {s t : State} (h : execEdge1 hw s = .next t) :
    (s.halted = true ∧ t = s) ∨ (s.halted = false ∧ t = capture .m1 hw s) := by
  rcases whenLive_next h with h | ⟨hh, h⟩
  · exact .inl h
  · injection h with h; exact .inr ⟨hh, h.symm⟩

theorem execSample_next {s t : State} (h : execSample s = .next t) :
    (s.halted = true ∧ t = s) ∨ (s.halted = false ∧ t = countSample (raiseTick s)) := by
  rcases whenLive_next h with h | ⟨hh, h⟩
  · exact .inl h
  · injection h with h; exact .inr ⟨hh, h.symm⟩

theorem execRx_next {b : Byte} {s t : State} (h : execRx b s = .next t) :
    (s.halted = true ∧ t = s) ∨ (s.halted = false ∧ t = fillSlot b s) := by
  rcases whenLive_next h with h | ⟨hh, h⟩
  · exact .inl h
  · injection h with h; exact .inr ⟨hh, h.symm⟩

theorem execRps0_next {s t : State} (h : execRps0 s = .next t) :
    (s.halted = true ∧ t = s) ∨ (s.halted = false ∧ t = rpsUpdate .m0 s) := by
  rcases whenLive_next h with h | ⟨hh, h⟩
  · exact .inl h
  · injection h with h; exact .inr ⟨hh, h.symm⟩

theorem execRps1_next {s t : State} (h : execRps1 s = .next t) :
    (s.halted = true ∧ t = s) ∨ (s.halted = false ∧ t = rpsUpdate .m1 s) := by
  rcases whenLive_next h with h | ⟨hh, h⟩
  · exact .inl h
  · injection h with h; exact .inr ⟨hh, h.symm⟩

/-- What the `PI` operation leaves (43_pi_loop.md R145): nothing, the consumed flag, or the flag consumed, both
motors updated and `PWM_CLR` emitted. -/
theorem piPhase_cases (c : Collaborator) (s : State) :
    (s.tickReady = false ∧ piPhase c s = s) ∨
    (s.tickReady = true ∧ s.running = false ∧ piPhase c s = clearTick s) ∨
    (s.tickReady = true ∧ s.running = true ∧
      piPhase c s = emit .pwmClr ((clearTick s).updMotors (MotorRegs.piUpdate c s.cfg))) := by
  cases ht : s.tickReady
  · exact .inl ⟨rfl, by unfold piPhase; rw [ht]; rfl⟩
  · cases hr : s.running
    · refine .inr (.inl ⟨rfl, rfl, ?_⟩)
      unfold piPhase
      rw [if_pos ht]
      simp only [clearTick_running, hr, Bool.false_eq_true, if_false]
    · refine .inr (.inr ⟨rfl, rfl, ?_⟩)
      unfold piPhase
      rw [if_pos ht]
      simp only [clearTick_running, hr, if_true, clearTick_cfg]

theorem execPi_next {s t : State} (h : execPi s = .next t) :
    (s.halted = true ∧ t = s) ∨ (s.halted = false ∧ t = piPhase s.cfg.pi s) := by
  rcases whenLive_next h with h | ⟨hh, h⟩
  · exact .inl h
  · injection h with h; exact .inr ⟨hh, h.symm⟩

/-- All six classes run the same way and differ in their direction only (44_command.md R163 to R168). -/
theorem runClass_eq (cls : CommandClass) (s : State) :
    runClass cls s = whenIdle s fun s => .next (startRun cls s) := by
  cases cls <;> rfl

/-- What `PARSE` answers (44_command.md R161): the state unchanged, or a command started on an Idle core. -/
theorem execParse_next {s t : State} (h : execParse s = .next t) :
    ((s.halted = true ∨ s.cmdReady = false ∨ s.running = true) ∧ t = s) ∨
    (s.halted = false ∧ s.cmdReady = true ∧ s.running = false ∧
      ∃ b, s.pending = some b ∧ t = startRun (classify (commandCode s.cfg b)) s) := by
  rcases whenLive_next h with ⟨hh, rfl⟩ | ⟨hh, h⟩
  · exact .inl ⟨.inl hh, rfl⟩
  · split at h
    · rename_i hc
      simp only [Bool.and_eq_true, Bool.not_eq_true'] at hc
      split at h
      · rename_i b hb
        rw [runClass_eq, whenIdle_of_idle hh hc.2] at h
        injection h with h
        exact .inr ⟨hh, hc.1, hc.2, b, hb, h.symm⟩
      · cases h
    · rename_i hc
      injection h with h
      refine .inl ⟨?_, h.symm⟩
      cases h1 : s.cmdReady <;> cases h2 : s.running <;> simp [h1, h2] at hc ⊢

/-- What the `DONE` operation leaves (44_command.md R171): nothing, or a completed command. -/
theorem donePhase_cases (c : Collaborator) (s : State) :
    ((s.running = false ∨ ¬ s.cfg.duration ≤ s.elapsed) ∧ donePhase c s = s) ∨
    (s.running = true ∧ s.cfg.duration ≤ s.elapsed ∧
      donePhase c s = emptySlot (stopRunning (s.updMotors (MotorRegs.shutOff c s.cfg)))) := by
  unfold donePhase
  split
  · rename_i h
    simp only [Bool.and_eq_true, decide_eq_true_eq] at h
    exact .inr ⟨h.1, h.2, rfl⟩
  · rename_i h
    refine .inl ⟨?_, rfl⟩
    cases hr : s.running
    · exact .inl rfl
    · exact .inr fun hd => h (by simp [hr, hd])

theorem execDone_next {s t : State} (h : execDone s = .next t) :
    (s.halted = true ∧ t = s) ∨ (s.halted = false ∧ t = donePhase s.cfg.pi s) := by
  rcases whenLive_next h with h | ⟨hh, h⟩
  · exact .inl h
  · injection h with h; exact .inr ⟨hh, h.symm⟩

theorem execReset_next {s t : State} (h : execReset s = .next t) : t = resetRegisters s.cfg.pi s := by
  injection h with h; exact h.symm

/-- What a reserved code answers (45_scheduler.md R195): the halt, taken once. -/
theorem reservedEvent_next {s t : State} (h : reservedEvent s = .next t) :
    (s.halted = true ∧ t = s) ∨ (s.halted = false ∧ t = raiseFatal .reservedEvent s) := by
  rcases whenLive_next h with h | ⟨hh, h⟩
  · exact .inl h
  · injection h with h; exact .inr ⟨hh, h.symm⟩

/-- Which operation a phase runs (30_encoding.md R84). -/
theorem runPhase_eq (s : State) :
    (s.phase = 0#3 ∧ runPhase s = execRps0 s) ∨ (s.phase = 1#3 ∧ runPhase s = execRps1 s) ∨
    (s.phase = 2#3 ∧ runPhase s = execPi s) ∨ (s.phase = 3#3 ∧ runPhase s = execParse s) ∨
    (s.phase = 4#3 ∧ runPhase s = execDone s) ∨ (4 < s.phase.toNat ∧ runPhase s = .refused .phaseOutOfRange) := by
  unfold runPhase
  split <;> rename_i h4 <;> try (simp [h4]; done)
  rename_i h0 h1 h2 h3
  refine .inr (.inr (.inr (.inr (.inr ⟨?_, rfl⟩))))
  have hlt := s.phase.isLt
  by_contra hc
  have : s.phase.toNat = 0 ∨ s.phase.toNat = 1 ∨ s.phase.toNat = 2 ∨ s.phase.toNat = 3 ∨ s.phase.toNat = 4 := by omega
  rcases this with h | h | h | h | h
  · exact h0 (BitVec.eq_of_toNat_eq h)
  · exact h1 (BitVec.eq_of_toNat_eq h)
  · exact h2 (BitVec.eq_of_toNat_eq h)
  · exact h3 (BitVec.eq_of_toNat_eq h)
  · exact h4 (BitVec.eq_of_toNat_eq h)

/-- What `STEP` answers: a halted core unchanged, or the answer of the phase operation with `PHASE` advanced
(45_scheduler.md R190). -/
theorem execStep_next {s t : State} (h : execStep s = .next t) :
    (s.halted = true ∧ t = s) ∨ (s.halted = false ∧ ∃ u, runPhase s = .next u ∧ t = advancePhase u) := by
  rcases whenLive_next h with h | ⟨hh, h⟩
  · exact .inl h
  · exact .inr ⟨hh, mapNext_next h⟩

/-- What a step answers: the operation of the word on the port, run from the state that has taken the word. -/
theorem step_next {s t : State} (h : step s = .next t) :
    s.cfg.wellFormed = true ∧ exec (decodeEvent (fetchWord s)) (beginStep s) = .next t := by
  unfold step at h
  split at h
  · rename_i hw; exact ⟨hw, h⟩
  · cases h

end Sys2Proof.Machine
end

