-- ==== Sys2Proof/Laws/PerInstr.lean ====
section
/-!
SUPPORT. Statements about every operation as syntax, one lemma per constructor of Instr.
RoundTrip: the decoder reads a well-formed operation back from its encoding (30_encoding.md R82, R84, R86).
-/

namespace Sys2Proof

/-- The event code of an assembled word. -/
@[simp] theorem make_op (op : BitVec 4) (data : Half) : (EventWord.make op data).op = op := by
  unfold EventWord.make EventWord.op
  ext i hi
  simp [show 16 + i < 20 by omega]
  exact BitVec.getLsbD_eq_getElem hi

/-- The operand of an assembled word. -/
@[simp] theorem make_data (op : BitVec 4) (data : Half) : (EventWord.make op data).data = data := by
  unfold EventWord.make EventWord.data
  ext i hi
  simp [hi, show i < 20 by omega]

/-- A byte survives the operand field of `RX`. -/
@[simp] theorem rx_operand (byte : Byte) : (byte.setWidth 16).setWidth 8 = byte := by
  apply BitVec.eq_of_toNat_eq; simp

/-- A code survives the command byte. -/
@[simp] theorem command_code (code : Code) : ((code.setWidth 8 : Byte)).setWidth 7 = code := by
  apply BitVec.eq_of_toNat_eq; simp

namespace Laws.RoundTrip

/-- Decoding a well-formed operation's encoding gives it back. -/
def Statement (i : Instr) : Prop := i.wellFormed = true → decode (encode i) = .ok i

/-- The round trip of `idle`. -/
theorem idle : Statement .idle := fun _ => by decide

/-- The round trip of `ovf`. -/
theorem ovf : Statement .ovf := fun _ => by decide

/-- The round trip of `edge0`. -/
theorem edge0 (hw : Half) : Statement (.edge0 hw) := by
  intro _; simp [decode, encode, decodeEvent]

/-- The round trip of `edge1`. -/
theorem edge1 (hw : Half) : Statement (.edge1 hw) := by
  intro _; simp [decode, encode, decodeEvent]

/-- The round trip of `sample`. -/
theorem sample : Statement .sample := fun _ => by decide

/-- The round trip of `rx`. -/
theorem rx (byte : Byte) : Statement (.rx byte) := by
  intro _; simp [decode, encode, decodeEvent]

/-- The round trip of `step`. -/
theorem step : Statement .step := fun _ => by decide

/-- The round trip of `rps0`. -/
theorem rps0 : Statement .rps0 := fun _ => by decide

/-- The round trip of `rps1`. -/
theorem rps1 : Statement .rps1 := fun _ => by decide

/-- The round trip of `pi`. -/
theorem pi : Statement .pi := fun _ => by decide

/-- The round trip of `parse`. -/
theorem parse : Statement .parse := fun _ => by decide

/-- The round trip of `done`. -/
theorem done : Statement .done := fun _ => by decide

/-- The round trip of `reserved7`. -/
theorem reserved7 : Statement .reserved7 := fun _ => by decide

/-- The round trip of `reserved8`. -/
theorem reserved8 : Statement .reserved8 := fun _ => by decide

/-- The round trip of `reserved9`. -/
theorem reserved9 : Statement .reserved9 := fun _ => by decide

/-- The round trip of `reservedA`. -/
theorem reservedA : Statement .reservedA := fun _ => by decide

/-- The round trip of `reservedB`. -/
theorem reservedB : Statement .reservedB := fun _ => by decide

/-- The round trip of `reservedC`. -/
theorem reservedC : Statement .reservedC := fun _ => by decide

/-- The round trip of `reservedD`. -/
theorem reservedD : Statement .reservedD := fun _ => by decide

/-- The round trip of `reservedE`. -/
theorem reservedE : Statement .reservedE := fun _ => by decide

/-- The round trip of `reset`. -/
theorem reset : Statement .reset := fun _ => by decide

/-- The round trip of `forward`. -/
theorem forward : Statement .forward := fun _ => by decide

/-- The round trip of `backward`. -/
theorem backward : Statement .backward := fun _ => by decide

/-- The round trip of `left`. -/
theorem left : Statement .left := fun _ => by decide

/-- The round trip of `right`. -/
theorem right : Statement .right := fun _ => by decide

/-- The round trip of `stop`. -/
theorem stop : Statement .stop := fun _ => by decide

/-- The round trip of `unknown`. -/
theorem unknown (code : Code) : Statement (.unknown code) := by
  intro h
  have h : classify code = .unknown := by simpa [Instr.wellFormed] using h
  simp [decode, encode, decodeCommand, h, CommandClass.instr]

end Laws.RoundTrip

end Sys2Proof
end

