-- ==== Sys2Proof/Laws/Steps.lean ====
section
/-!
SUPPORT. What any operation can answer: a halted core unchanged, or the answer of the operation that runs, which
is one of the listed states. Whole-machine proofs split on these two lemmas and unfold no meaning;
claims about runs peel off one step, or one part, at a time.
-/

namespace Sys2Proof.Machine

open Sys2Proof

/-- An operation other than `RESET` leaves a halted core alone, or runs the operation it stands for on a live one,
after which `STEP` advances `PHASE` (45_scheduler.md R190, R196). -/
theorem exec_operationOf {i : Instr} {s t : State} (h : exec i s = .next t) (hi : i ≠ .reset) :
    (s.halted = true ∧ t = s) ∨
    (s.halted = false ∧ ∃ u, exec (operationOf i s) s = .next u ∧
      operationOf i s ≠ .step ∧ operationOf i s ≠ .reset ∧
      ((i ≠ .step ∧ t = u) ∨ (i = .step ∧ t = advancePhase u))) := by
  by_cases hs : i = .step
  · subst hs
    rcases execStep_next h with h | ⟨hh, u, hu, rfl⟩
    · exact .inl h
    · refine .inr ⟨hh, u, ?_⟩
      unfold operationOf
      rw [if_pos rfl]
      rcases runPhase_eq s with ⟨hp, e⟩ | ⟨hp, e⟩ | ⟨hp, e⟩ | ⟨hp, e⟩ | ⟨hp, e⟩ | ⟨hp, e⟩ <;> rw [e] at hu
      · rw [hp]; exact ⟨hu, nofun, nofun, .inr ⟨rfl, rfl⟩⟩
      · rw [hp]; exact ⟨hu, nofun, nofun, .inr ⟨rfl, rfl⟩⟩
      · rw [hp]; exact ⟨hu, nofun, nofun, .inr ⟨rfl, rfl⟩⟩
      · rw [hp]; exact ⟨hu, nofun, nofun, .inr ⟨rfl, rfl⟩⟩
      · rw [hp]; exact ⟨hu, nofun, nofun, .inr ⟨rfl, rfl⟩⟩
      · cases hu
  · have e : operationOf i s = i := by unfold operationOf; rw [if_neg hs]
    cases hh : s.halted
    · exact .inr ⟨rfl, t, by rw [e]; exact ⟨h, hs, hi, .inl ⟨hs, rfl⟩⟩⟩
    · refine .inl ⟨rfl, ?_⟩
      cases i
      case step => exact absurd rfl hs
      case reset => exact absurd rfl hi
      all_goals
        simp only [exec, execIdle, execOvf, execEdge0, execEdge1, execSample, execRx, execRps0, execRps1, execPi,
          execParse, execDone, execReserved7, execReserved8, execReserved9, execReservedA, execReservedB,
          execReservedC, execReservedD, execReservedE, reservedEvent, execForward, execBackward, execLeft,
          execRight, execStop, execUnknown, whenIdle, whenLive_of_halted hh] at h
        injection h with h
        exact h.symm

/-- The state an operation other than `STEP` and `RESET` answers on a live core: the state it found, or the one its
component's rule gives. -/
theorem exec_cases {i : Instr} {s u : State} (hh : s.halted = false) (h : exec i s = .next u) (hs : i ≠ .step)
    (hr : i ≠ .reset) :
    u = s ∨
    (i = .ovf ∧ u = bumpRoll s) ∨
    (∃ hw, i = .edge0 hw ∧ u = capture .m0 hw s) ∨
    (∃ hw, i = .edge1 hw ∧ u = capture .m1 hw s) ∨
    (i = .sample ∧ u = countSample (raiseTick s)) ∨
    (∃ b, i = .rx b ∧ u = fillSlot b s) ∨
    (i = .rps0 ∧ u = rpsUpdate .m0 s) ∨
    (i = .rps1 ∧ u = rpsUpdate .m1 s) ∨
    (i = .pi ∧ s.tickReady = true ∧ s.running = false ∧ u = clearTick s) ∨
    (i = .pi ∧ s.tickReady = true ∧ s.running = true ∧
      u = emit .pwmClr ((clearTick s).updMotors (MotorRegs.piUpdate s.cfg.pi s.cfg))) ∨
    (i = .parse ∧ s.running = false ∧ s.cmdReady = true ∧
      ∃ b, s.pending = some b ∧ u = startRun (classify (commandCode s.cfg b)) s) ∨
    (i.startsCommand = true ∧ i ≠ .parse ∧ s.running = false ∧ ∃ c, u = startRun c s ∧
      (c = .unknown ∨ i ∈ [Instr.forward, .backward, .left, .right, .stop])) ∨
    (i = .done ∧ s.running = true ∧ s.cfg.duration ≤ s.elapsed ∧
      u = emptySlot (stopRunning (s.updMotors (MotorRegs.shutOff s.cfg.pi s.cfg)))) ∨
    (i ∈ [Instr.reserved7, .reserved8, .reserved9, .reservedA, .reservedB, .reservedC, .reservedD, .reservedE] ∧
      u = raiseFatal .reservedEvent s) := by
  cases i
  case step => exact absurd rfl hs
  case reset => exact absurd rfl hr
  case idle => exact .inl (execIdle_next h)
  case ovf => rcases execOvf_next h with ⟨hx, -⟩ | ⟨-, rfl⟩ <;> simp_all
  case edge0 => rcases execEdge0_next h with ⟨hx, -⟩ | ⟨-, rfl⟩ <;> simp_all
  case edge1 => rcases execEdge1_next h with ⟨hx, -⟩ | ⟨-, rfl⟩ <;> simp_all
  case sample => rcases execSample_next h with ⟨hx, -⟩ | ⟨-, rfl⟩ <;> simp_all
  case rx => rcases execRx_next h with ⟨hx, -⟩ | ⟨-, rfl⟩ <;> simp_all
  case rps0 => rcases execRps0_next h with ⟨hx, -⟩ | ⟨-, rfl⟩ <;> simp_all
  case rps1 => rcases execRps1_next h with ⟨hx, -⟩ | ⟨-, rfl⟩ <;> simp_all
  case pi =>
    rcases execPi_next h with ⟨hx, -⟩ | ⟨-, rfl⟩
    · simp_all
    · rcases piPhase_cases s.cfg.pi s with ⟨-, h⟩ | ⟨h1, h2, h⟩ | ⟨h1, h2, h⟩ <;> simp_all
  case parse =>
    rcases execParse_next h with ⟨-, rfl⟩ | ⟨-, h1, h2, b, hb, rfl⟩
    · exact .inl rfl
    · simp [h1, h2, hb]
  case done =>
    rcases execDone_next h with ⟨hx, -⟩ | ⟨-, rfl⟩
    · simp_all
    · rcases donePhase_cases s.cfg.pi s with ⟨-, h⟩ | ⟨h1, h2, h⟩ <;> simp_all
  all_goals first
    | (rcases reservedEvent_next h with ⟨hx, -⟩ | ⟨-, rfl⟩ <;> simp_all)
    | (simp only [exec, execForward, execBackward, execLeft, execRight, execStop, execUnknown] at h
       rcases whenIdle_next h with ⟨-, rfl⟩ | ⟨-, h1, h⟩
       · exact .inl rfl
       · injection h with h
         simp [Instr.startsCommand, h1, ← h] <;> exact .inr ⟨_, rfl⟩)

/-! ### Runs -/

/-- A run whose first step goes on is the run from the next state. -/
theorem run_succ {s u : State} (h : step s = .next u) (k : Nat) :
    Host.Core.run Sys2Proof.core (k + 1) s = Host.Core.run Sys2Proof.core k u := by
  have h' : Sys2Proof.core.step s = .next u := h
  simp only [Host.Core.run]
  rw [h']

/-- A run goes on from where its first part ended. -/
theorem run_add {s u : State} (a b : Nat) (h : Host.Core.run Sys2Proof.core a s = .next u) :
    Host.Core.run Sys2Proof.core (a + b) s = Host.Core.run Sys2Proof.core b u := by
  induction a generalizing s with
  | zero =>
    have : s = u := by injection h
    rw [this, Nat.zero_add]
  | succ a ih =>
    simp only [Host.Core.run] at h
    cases hs : Sys2Proof.core.step s with
    | next v =>
      rw [hs] at h
      rw [show a + 1 + b = (a + b) + 1 by omega, run_succ hs]
      exact ih h
    | fault x => rw [hs] at h; cases h
    | refused x => rw [hs] at h; cases h

end Sys2Proof.Machine
end

