-- ==== Sys2Proof/Tests/Slice0.lean ====
section
/-!
SUPPORT. Tests: ill-formed terms and configurations refused, every operation's decoding from a word written out
from its encoding, single operations on values of 95_test_vectors.md, and, for every statement with hypotheses, a
concrete state that meets them.
-/

namespace Sys2Proof.Tests

open Sys2Proof Sys2Proof.Machine

-- One theorem after another: elaborated side by side, this many kernel evaluations exhaust the threads.
set_option Elab.async false

/-! ### The fixture: the test values and the collaborator `PI_REF` of 95_test_vectors.md section 2 -/

/-- The default configuration with the test values of the open parameters. -/
def testCfg : Cfg :=
  { Cfg.default with
    rpsMax := PosF32.ofPattern 0x42C80000
    rpsOn := PosF32.ofPattern 0x40000000
    kp := 0x41A00000#32, kd := 0x00000000#32, kiPeriod := 0x42480000#32 }

/-- The accumulator of a `PI_REF` state. -/
def refAcc (s : PiState) : F32 := s.words.headD 0#32

/-- `PI_REF.advance`, its gains and bounds the constants of the fixture. -/
def refAdvance (s : PiState) (period err : F32) : PiState × F32 :=
  let acc := fadd (refAcc s) (fmul err period)
  let u := fadd (fmul 0x41A00000#32 err) (fmul 0x42480000#32 acc)
  (⟨[acc]⟩, if flt u 0x00000000#32 then 0x00000000#32 else if fgt u 0x42C80000#32 then 0x42C80000#32 else u)

/-- `PI_REF`. -/
def piRef : Collaborator where
  init _ _ _ _ _ := ⟨[0#32]⟩
  advance := refAdvance
  clear _ := ⟨[0#32]⟩

/-- The reset state under the fixture. -/
def base : State := State.atReset piRef testCfg

/-- A Running state: both setpoints "on", a sample pending. -/
def running : State :=
  { base with
    motor0 := { base.motor0 with setpoint := 0x40000000#32 }
    motor1 := { base.motor1 with setpoint := 0x40000000#32 }
    running := true, tickReady := true }

/-- An Idle state with the byte 0xF7 in the slot. -/
def loaded : State := { base with pending := some 0xF7#8, cmdReady := true }

/-- A halted state. -/
def stuck : State := { running with halted := true, hcause := 2#2, phase := 2#3 }

/-- The state a result goes on with. -/
def after (r : Result) : Option State :=
  match r with
  | .next s => some s
  | _ => none

/-! ### What is refused -/

theorem test_unknown_never_carries_a_recognised_code :
    ∀ c ∈ [0x77#7, 0x73#7, 0x61#7, 0x64#7, 0x78#7], (Instr.unknown c).wellFormed = false := by decide

theorem test_configurations_refused :
    ∀ c ∈ [{ testCfg with hwW := 8 }, { testCfg with rollW := 32 }, { testCfg with tickW := 16 },
      { testCfg with alpha := 0x3F800001#32 }, { testCfg with alpha := 0xBF000000#32 },
      { testCfg with alpha := 0x7FC00000#32 }, { testCfg with tMin := 0x00000000#32 },
      { testCfg with tMin := 0x3F800000#32 }, { testCfg with duration := 0#32 }, { testCfg with maxc := 0#32 },
      { testCfg with maxc := 256#32 }, { testCfg with outMin := 0xBF800000#32 },
      { testCfg with outMin := 0x42C80000#32, outMax := 0x42480000#32 },
      { testCfg with outMax := 0x42C80001#32 }, { testCfg with outMax := 0x7F800000#32 }],
      c.wellFormed = false := by decide +kernel

theorem test_default_configuration_is_well_formed :
    Cfg.default.wellFormed = true ∧ testCfg.wellFormed = true := by decide +kernel

theorem test_what_is_no_encoding_is_rejected_by_name :
    decodeBits 24 0x100000 = .error (.bitsAboveEventWord 0x100000) ∧
    decodeBits 8 0x100 = .error (.bitsAboveCommandByte 0x100) ∧
    decode (.phased 0x60000#20 5#3) = .error (.noSuchPhase 5#3) ∧
    decode (.phased 0x40000#20 2#3) = .error (.notAStepWord 0x40000#20) := ⟨rfl, rfl, rfl, rfl⟩

/-! ### Every operation's word, written out from 30_encoding.md R82, R84, R86 -/

theorem test_decode_event_words :
    decodeTableWord 24 0b00001111111111111111 = some .idle ∧
    decodeTableWord 24 0b00011010101111001101 = some .ovf ∧
    decodeTableWord 24 0b00101111111111111111 = some (.edge0 0xFFFF#16) ∧
    decodeTableWord 24 0b00110001001000110100 = some (.edge1 0x1234#16) ∧
    decodeTableWord 24 0b01000000000000000000 = some .sample ∧
    decodeTableWord 24 0b01011010101111110111 = some (.rx 0xF7#8) ∧
    decodeTableWord 24 0b01100000000000000000 = some .step ∧
    decodeTableWord 24 0b11111111111111111111 = some .reset := by decide

theorem test_decode_reserved_codes :
    decodeTableWord 24 0b01110000000000000000 = some .reserved7 ∧
    decodeTableWord 24 0b10000000000000000000 = some .reserved8 ∧
    decodeTableWord 24 0b10010000000000000000 = some .reserved9 ∧
    decodeTableWord 24 0b10100000000000000000 = some .reservedA ∧
    decodeTableWord 24 0b10110000000000000000 = some .reservedB ∧
    decodeTableWord 24 0b11000000000000000000 = some .reservedC ∧
    decodeTableWord 24 0b11010000000000000000 = some .reservedD ∧
    decodeTableWord 24 0b11100001001000110100 = some .reservedE := by decide

theorem test_decode_phases :
    decode (.phased 0b01100000000000000000#20 0#3) = .ok .rps0 ∧
    decode (.phased 0b01100000000000000000#20 1#3) = .ok .rps1 ∧
    decode (.phased 0b01100000000000000000#20 2#3) = .ok .pi ∧
    decode (.phased 0b01100000000000000000#20 3#3) = .ok .parse ∧
    decode (.phased 0b01100000000000000000#20 4#3) = .ok .done := by decide

theorem test_decode_command_bytes :
    decodeTableWord 8 0b01110111 = some .forward ∧ decodeTableWord 8 0b11110111 = some .forward ∧
    decodeTableWord 8 0b01110011 = some .backward ∧ decodeTableWord 8 0b01100001 = some .left ∧
    decodeTableWord 8 0b01100100 = some .right ∧ decodeTableWord 8 0b01111000 = some .stop ∧
    decodeTableWord 8 0b01010111 = some (.unknown 0b1010111#7) ∧
    decodeTableWord 8 0b10000000 = some (.unknown 0b0000000#7) := by decide

/-! ### Single operations (95_test_vectors.md sections 3.2 to 3.7) -/

/-- V-OVF-3. -/
theorem test_ovf_wraps : (after (exec .ovf { base with roll := 0xFFFF#16 })).map (·.roll) = some 0x0000#16 := by
  decide +kernel

/-- V-EDGE-1. -/
theorem test_edge0 :
    (after (exec (.edge0 0x1234#16) { base with
      roll := 0x0001#16, motor0 := { base.motor0 with rawTick := 0x0000F000#32, bufTick := 0x00000100#32 } })).map
      (fun s => (s.motor0.rawTick, s.motor0.bufTick, s.motor0.measReady, s.motor1.measReady))
    = some (0x00011234#32, 0x0000F000#32, true, false) := by decide +kernel

/-- V-EDGE-2. -/
theorem test_edge1 :
    (after (exec (.edge1 0x0040#16) { base with
      roll := 0xFFFF#16, motor1 := { base.motor1 with rawTick := 0xFFFE8000#32 } })).map
      (fun s => (s.motor1.rawTick, s.motor1.bufTick, s.motor1.measReady, s.motor0.measReady))
    = some (0xFFFF0040#32, 0xFFFE8000#32, true, false) := by decide +kernel

/-- V-SMP-2 and V-SMP-4. -/
theorem test_sample_counts_while_running :
    (after (exec .sample { running with elapsed := 375#32 })).map (·.elapsed) = some 376#32 ∧
    (after (exec .sample { running with elapsed := 0xFFFFFFFF#32 })).map (·.elapsed) = some 0#32 := by
  decide +kernel

/-- V-SMP-1. -/
theorem test_sample_counts_nothing_while_idle :
    (after (exec .sample { base with elapsed := 7#32 })).map (fun s => (s.elapsed, s.tickReady))
    = some (7#32, true) := by decide +kernel

/-- V-RX-2. -/
theorem test_rx_last_writer_wins :
    (after (exec (.rx 0x73#8) { base with pending := some 0x61#8, cmdReady := true })).map
      (fun s => (s.pending, s.cmdReady)) = some (some 0x73#8, true) := by decide +kernel

/-- V-RPS-4 and V-RPS-9, V-RPS-8: a kept speed, and the two sides of the bound 100.0. -/
theorem test_rps0_estimate :
    (after (exec .rps0 { base with motor0 := { base.motor0 with
      bufTick := 0x00010000#32, rawTick := 0x000103E8#32, measReady := true } })).map
      (fun s => (s.motor0.frps, s.motor0.measReady)) = some (0x42029CBC#32, false) ∧
    nextEstimate testCfg 0#32 654#32 = 0x4247B681#32 ∧ nextEstimate testCfg 0#32 653#32 = 0#32 := by
  decide +kernel

/-- V-RPS-19. -/
theorem test_rps1_discards_an_outlier :
    (after (exec .rps1 { base with motor1 := { base.motor1 with
      bufTick := 0xFFFFFF00#32, rawTick := 0x00000100#32, frps := 0x3F800000#32, measReady := true } })).map
      (fun s => (s.motor1.frps, s.motor1.measReady)) = some (0x3F800000#32, false) := by decide +kernel

/-- V-RPS-15, V-RPS-16: conversions that round. -/
theorem test_conversion_rounds :
    u32ToF32 16777217#32 = 0x4B800000#32 ∧ u32ToF32 4294967295#32 = 0x4F800000#32 ∧
    nextEstimate testCfg 0#32 4294967295#32 = 0x36FF1A1F#32 := by decide +kernel

/-- V-PI-4, by `PI_REF`. -/
theorem test_pi_updates_both_motors :
    (fun s => (s.motor0.ocr, s.motor1.ocr, refAcc s.motor0.pictl, refAcc s.motor1.pictl, s.tickReady, s.emitted))
      (piPhase piRef { running with
        motor0 := { running.motor0 with frps := 0x3F000010#32 }
        motor1 := { running.motor1 with frps := 0x3F800010#32 } })
    = (175, 202, 0x3CC49B9E#32, 0x3C83125F#32, false, [.pwmClr]) := by decide +kernel

/-- V-PI-2, by `PI_REF`. -/
theorem test_pi_consumes_the_tick_while_idle :
    (fun s => (s.tickReady, s.motor0.ocr, s.emitted)) (piPhase piRef { base with tickReady := true })
    = (false, 255, []) := by decide +kernel

/-- V-PARSE-3. -/
theorem test_parse_starts_a_command :
    (after (exec .parse { loaded with elapsed := 376#32 })).map
      (fun s => (s.dir, s.motor0.setpoint, s.motor1.setpoint, s.elapsed, s.running))
    = some (0b0101#4, 0x40000000#32, 0x40000000#32, 0#32, true) := by decide +kernel

/-- V-CMD-1 to V-CMD-12: what each class writes to `DIR`. -/
theorem test_classes_write_their_direction :
    [Instr.forward, .backward, .left, .right, .stop, .unknown 0x57#7].map
      (fun i => (after (exec i { base with dir := 0b0100#4 })).map fun s => (s.dir, s.running))
    = [some (0b0101#4, true), some (0b1010#4, true), some (0b0110#4, true), some (0b1001#4, true),
       some (0b0000#4, true), some (0b0100#4, true)] := by decide +kernel

/-- V-DONE-3, by `PI_REF`. -/
theorem test_done_ends_a_command :
    (fun s => (s.motor0.setpoint, s.motor1.ocr, refAcc s.motor1.pictl, s.running, s.pending, s.dir))
      (donePhase piRef { running with
        elapsed := 376#32, dir := 0b0101#4, pending := some 0x73#8, cmdReady := true
        motor0 := { running.motor0 with ocr := 149 }
        motor1 := { running.motor1 with ocr := 140, pictl := ⟨[0x3F800000#32]⟩ } })
    = (0x00000000#32, 255, 0#32, false, none, 0b0101#4) := by decide +kernel

/-- V-DONE-2, by `PI_REF`. -/
theorem test_done_waits : donePhase piRef { running with elapsed := 375#32 } = { running with elapsed := 375#32 } := by
  decide +kernel

/-- V-STEP-4. -/
theorem test_step_runs_the_phase :
    (after (exec .step { base with
      phase := 1#3
      motor0 := { base.motor0 with measReady := true }, motor1 := { base.motor1 with measReady := true } })).map
      (fun s => (s.phase, s.motor0.measReady, s.motor1.measReady)) = some (2#3, true, false) := by decide +kernel

/-- V-STEP-2. -/
theorem test_step_returns_to_phase_0 :
    (after (exec .step { base with phase := 4#3 })).map (·.phase) = some 0#3 := by decide +kernel

/-- V-IDLE-1. -/
theorem test_idle : after (exec .idle stuck) = some stuck := by decide +kernel

/-- V-RSV-1, for every reserved code. -/
theorem test_reserved_codes_halt :
    ∀ i ∈ [Instr.reserved7, .reserved8, .reserved9, .reservedA, .reservedB, .reservedC, .reservedD, .reservedE],
      (after (exec i { running with phase := 3#3 })).map
        (fun s => (s.halted, s.hcause, s.phase, s.outputPort.haltOut)) = some (true, 2#2, 3#3, true) := by
  decide +kernel

/-- V-RST-1 (the collaborator's part apart, which is a free constant). -/
theorem test_reset :
    (after (exec .reset { stuck with roll := 0x1234#16, motor0 := { running.motor0 with ocr := 0 } })).map
      (fun s => (s.roll, s.motor0.ocr, s.running, s.phase, s.halted, s.hcause))
    = some (0#16, 255, false, 0#3, false, 0#2) := by decide +kernel

/-- V-OVF-5 and V-STEP-3: a halted core. -/
theorem test_halted_core_is_gated :
    after (exec .ovf stuck) = some stuck ∧ after (exec .step stuck) = some stuck := by decide +kernel

/-! ### The halves of 43_pi_loop.md R146 and the worked mapping values -/

/-- V-DTC-3, V-DTC-8, V-DTC-14, V-DTC-10. -/
theorem test_duty_mapping :
    [0x42480000#32, 0x41200000#32, 0x80000000#32, 0x42C7999A#32].map (dutyToCompare testCfg)
      = [128, 230, 255, 1] := by decide +kernel

/-! ### States and operands that meet the hypotheses of the statements -/

/-- Live and halted states, for every statement whose hypothesis is `halted` alone: `ROLL` and `ELAPSED` at their
last values, and a latched interval. -/
theorem witness_live_and_halted :
    ({ base with roll := 0xFFFF#16 } : State).halted = false ∧
    ({ running with elapsed := 0xFFFFFFFF#32 } : State).halted = false ∧
    ({ base with motor0 := { base.motor0 with measReady := true } } : State).halted = false ∧
    stuck.halted = true ∧ Instr.ovf ≠ .reset := by decide +kernel

/-- RpsUpdatesTheEstimate: its clauses, a live core at phases 0 and 1 and a halted one. -/
theorem witness_RpsUpdatesTheEstimate :
    (base.halted = false ∧ base.phase = 0#3) ∧
    (({ base with phase := 1#3 } : State).halted = false ∧ ({ base with phase := 1#3 } : State).phase = 1#3) ∧
    stuck.halted = true := by decide +kernel

/-- The `STEP` clauses of PiUpdatesBothMotors, ParseStartsACommand and DoneEndsACommand. -/
theorem witness_phases_2_3_4 :
    (({ base with phase := 2#3 } : State).halted = false ∧ ({ base with phase := 2#3 } : State).phase = 2#3) ∧
    (({ base with phase := 3#3 } : State).halted = false ∧ ({ base with phase := 3#3 } : State).phase = 3#3) ∧
    (({ base with phase := 4#3 } : State).halted = false ∧ ({ base with phase := 4#3 } : State).phase = 4#3) := by
  decide +kernel

/-- PiUpdatesBothMotors: its other three clauses. -/
theorem witness_PiUpdatesBothMotors :
    (stuck.halted = true ∧ base.halted = false ∧ base.tickReady = false) ∧
    (({ base with tickReady := true } : State).halted = false ∧ ({ base with tickReady := true } : State).tickReady = true
      ∧ ({ base with tickReady := true } : State).running = false) ∧
    (running.halted = false ∧ running.tickReady = true ∧ running.running = true) := by decide +kernel

/-- ParseStartsACommand: a halted core, an empty slot, a Running core; and an Idle core with a byte. -/
theorem witness_ParseStartsACommand :
    stuck.halted = true ∧ base.cmdReady = false ∧ running.running = true ∧
    (loaded.halted = false ∧ loaded.cmdReady = true ∧ loaded.running = false ∧ loaded.pending = some 0xF7#8) := by
  decide +kernel

/-- CommandClassesStartTheTimedRun: an unrecognised code next to a recognised one, an Idle core, a Running one and a
halted one. -/
theorem witness_CommandClassesStartTheTimedRun :
    (0x76#7 : Code) ∉ [0x77#7, 0x73#7, 0x61#7, 0x64#7, 0x78#7] ∧
    (base.halted = false ∧ base.running = false) ∧ running.running = true ∧ stuck.halted = true := by decide +kernel

/-- DoneEndsACommand: one sample short of the duration, and exactly at it. -/
theorem witness_DoneEndsACommand :
    (stuck.halted = true ∧ base.running = false ∧
      ({ running with elapsed := 375#32 } : State).elapsed.toNat < running.cfg.duration.toNat) ∧
    (({ running with elapsed := 376#32 } : State).halted = false ∧
      ({ running with elapsed := 376#32 } : State).running = true ∧
      running.cfg.duration.toNat ≤ ({ running with elapsed := 376#32 } : State).elapsed.toNat) := by decide +kernel

/-- StepRunsThePhaseOperation: every phase on a live core, and a halted core. -/
theorem witness_StepRunsThePhaseOperation :
    (∀ p ∈ [0, 1, 2, 3, 4], ({ base with phase := BitVec.ofNat 3 p } : State).halted = false ∧
      ({ base with phase := BitVec.ofNat 3 p } : State).phase.toNat = p) ∧ stuck.halted = true := by decide +kernel

/-- StepAdvancesThePhase and StepCompletesUnderTheInvariants: phases 0 and 4, the slot empty and full. -/
theorem witness_StepAdvancesThePhase :
    (base.halted = false ∧ SlotAgrees base ∧ PhaseInRange base ∧ base.cfg.wellFormed = true) ∧
    (({ loaded with phase := 4#3 } : State).halted = false ∧ SlotAgrees { loaded with phase := 4#3 } ∧
      PhaseInRange { loaded with phase := 4#3 } ∧ loaded.cfg.wellFormed = true) := by decide +kernel

/-- ReservedCodesHaltTheCore: the first and the last reserved code, live and halted. -/
theorem witness_ReservedCodesHaltTheCore :
    7 ≤ 7 ∧ 14 ≤ 14 ∧ Instr.reserved7 ∈ [Instr.reserved7, .reservedE] ∧ Instr.reservedE ∈ [Instr.reserved7, .reservedE] ∧
    running.halted = false ∧ stuck.halted = true := by decide +kernel

/-- StepRunsTheDecodedOperation: an `EDGE1` word on the port. -/
theorem witness_StepRunsTheDecodedOperation :
    ({ base with port := [0x31234#20, 0x60000#20] } : State).cfg.wellFormed = true ∧
    ({ base with port := [0x31234#20, 0x60000#20] } : State).port = 0x31234#20 :: [0x60000#20] ∧
    (Instr.edge1 0x1234#16).wellFormed = true ∧
    decode (.event 0x31234#20) = .ok (.edge1 0x1234#16) := by
  refine ⟨by decide +kernel, rfl, rfl, by decide⟩

/-- EmptyPortIsAnIdleStep and IllFormedConfigurationIsRefused. -/
theorem witness_EmptyPort_IllFormed :
    (base.cfg.wellFormed = true ∧ base.port = []) ∧
    ({ base with cfg := { testCfg with duration := 0#32 } } : State).cfg.wellFormed = false := by decide +kernel

/-- CommandByteRunsItsClass. -/
theorem witness_CommandByteRunsItsClass :
    base.cfg.wellFormed = true ∧ base.cfg.cmdMask = 0x7F#8 := by decide +kernel

/-- RefusalsComeFromExcludedStatesOnly: the two refusals, each at a state that is excluded. -/
theorem witness_RefusalsComeFromExcludedStatesOnly :
    exec .step { base with phase := 5#3 } = .refused .phaseOutOfRange ∧
    exec .parse { base with cmdReady := true } = .refused .slotDisagrees ∧
    exec .step { base with cmdReady := true, phase := 3#3 } = .refused .slotDisagrees := ⟨rfl, rfl, rfl⟩

/-- DecodeReadsEncodedOperations: an operand at its last value, and a well-formed `UNKNOWN`. -/
theorem witness_DecodeReadsEncodedOperations :
    (Instr.edge0 0xFFFF#16).wellFormed = true ∧ (Instr.unknown 0x7F#7).wellFormed = true := by decide

/-- IgnoredOperandBitsChangeNothing: two `OVF` words, and two `RX` words that differ above the byte. -/
theorem witness_IgnoredOperandBitsChangeNothing :
    (EventWord.op 0x10000#20 = EventWord.op 0x1FFFF#20 ∧ EventWord.op 0x10000#20 ≠ 0x2#4 ∧
      EventWord.op 0x10000#20 ≠ 0x3#4 ∧ EventWord.op 0x10000#20 ≠ 0x5#4) ∧
    (EventWord.op 0x50077#20 = EventWord.op 0x5AB77#20 ∧ EventWord.op 0x50077#20 = 0x5#4 ∧
      (0x50077#20).toNat % 2 ^ 8 = (0x5AB77#20).toNat % 2 ^ 8) := by decide

/-- HighBitOfACommandIsIgnored. -/
theorem witness_HighBitOfACommandIsIgnored :
    loaded.cfg.cmdMask = 0x7F#8 ∧ loaded.halted = false ∧ loaded.cmdReady = true ∧ loaded.running = false := by
  decide +kernel

/-- SampleOverrunAdvancesOnce and CollisionByteIsNeverActedOn: a byte in the middle of the run, an operation while it
waits, and the last sample. -/
theorem witness_SampleOverrun_CollisionByte :
    (running.halted = false ∧ running.running = true) ∧
    (exec .parse running = .next running ∧ Instr.parse ≠ .reset ∧
      running.elapsed.toNat < running.cfg.duration.toNat) ∧
    (({ running with elapsed := 376#32 } : State).halted = false ∧
      ({ running with elapsed := 376#32 } : State).running = true ∧
      running.cfg.duration.toNat ≤ ({ running with elapsed := 376#32 } : State).elapsed.toNat) :=
  ⟨by decide +kernel, ⟨rfl, nofun, by decide +kernel⟩, by decide +kernel⟩

/-- ParsedCommandOutlivesItsPass: with the shortest duration. -/
theorem witness_ParsedCommandOutlivesItsPass :
    let s : State := { loaded with phase := 3#3, cfg := { testCfg with duration := 1#32 } }
    s.cfg.wellFormed = true ∧ s.halted = false ∧ s.running = false ∧ s.cmdReady = true ∧
      s.pending = some 0xF7#8 ∧ s.phase = 3#3 := by decide +kernel

/-- SamplesBetweenParseAndDoneAreCounted: three interrupt events between the two, one of them a `SAMPLE`, and none at
all, at the shortest duration. -/
theorem witness_SamplesBetweenParseAndDoneAreCounted :
    let s : List EventWord → State := fun events => { loaded with
      phase := 3#3, cfg := { testCfg with duration := 1#32 }, port := stepWord :: events ++ stepWord :: [] }
    ((s []).cfg.wellFormed = true ∧ (s []).halted = false ∧ (s []).running = false ∧ (s []).cmdReady = true ∧
      (s []).pending = some 0xF7#8 ∧ (s []).phase = 3#3) ∧
    (∀ events, (s events).port = stepWord :: events ++ stepWord :: []) ∧
    (∀ ev ∈ [ovfWord, sampleWord, rxWord 0x73#8], ev.op.toNat ≤ 5) ∧
    [ovfWord, sampleWord, rxWord 0x73#8].countP (fun ev => ev.op == 0x4#4) = 1 :=
  ⟨by decide +kernel, fun _ => rfl, by simp only [List.forall_mem_cons]; exact ⟨by decide, by decide, by decide, nofun⟩,
    by decide⟩

/-- ControlUpdateWaitsForASample: an Idle core, and a Running one with no tick pending that steps on `STEP`. -/
theorem witness_ControlUpdateWaitsForASample :
    (base.halted = false ∧ base.running = false) ∧
    ({ running with tickReady := false, phase := 3#3, port := [stepWord] } : State).tickReady = false ∧
    decodeEvent (fetchWord { running with tickReady := false, phase := 3#3, port := [stepWord] }) ≠ .sample ∧
    (after (Machine.step { running with tickReady := false, phase := 3#3, port := [stepWord] })).map (·.running)
      = some true := by decide +kernel

/-- EachRegisterHasItsWriters: operations that are not `RESET` and answer a next state, one of them a `PARSE` that
writes `DIR`. -/
theorem witness_EachRegisterHasItsWriters :
    (exec .ovf base = .next { base with roll := 1#16 } ∧ Instr.ovf ≠ .reset) ∧
    (∃ t, exec .parse loaded = .next t ∧ t.dir ≠ loaded.dir) := ⟨⟨rfl, nofun⟩, _, rfl, by decide +kernel⟩

/-- The statements about `Machine.step`: a step that answers a next state from a state that meets every invariant,
with an ordinary configuration. -/
theorem witness_step_and_invariants :
    (∃ t, Machine.step base = .next t) ∧ ControlInv base ∧ CompareInRange base ∧ EstimatesFinite base ∧
    OffWhileIdle base ∧ base.cfg.speedsOrdinary ∧ base.cfg.topOrdinary :=
  ⟨⟨base, rfl⟩, by decide +kernel, by decide +kernel, by decide +kernel, by decide +kernel, by decide +kernel,
    by decide +kernel⟩

/-- The statements about `Machine.step` that need reachable collaborator states: the reset state of an ordinary
configuration, whose table has no code `11`. -/
theorem witness_CollaboratorsReachable :
    let s : State := State.atReset testCfg.pi testCfg
    (∃ t, Machine.step s = .next t) ∧ ControlInv s ∧ CompareInRange s ∧ EstimatesFinite s ∧
    CollaboratorsReachable s ∧ s.cfg.topOrdinary ∧ s.cfg.dirtab.Legal ∧ LegalDir s.dir :=
  ⟨⟨_, rfl⟩, ⟨rfl, by decide, ⟨rfl, rfl⟩, rfl⟩, ⟨le_refl _, le_refl _⟩, by decide +kernel, ⟨.init, .init⟩,
    by decide +kernel, by decide, by decide⟩

/-- PwmClearComesFromPiAlone: a step that emits `PWM_CLR`. -/
theorem witness_PwmClearComesFromPiAlone :
    ∃ t, Machine.step { running with phase := 2#3, port := [stepWord] } = .next t ∧ t.emitted = [.pwmClr] :=
  ⟨_, rfl, rfl⟩

/-- RunningChangesAtItsTwoTransitions: a step that starts a command and a step that ends one. -/
theorem witness_RunningChangesAtItsTwoTransitions :
    (∃ t, Machine.step { loaded with phase := 3#3, port := [stepWord] } = .next t ∧ t.running = true) ∧
    (∃ t, Machine.step { running with elapsed := 376#32, phase := 4#3, port := [stepWord] } = .next t ∧
      t.running = false) := ⟨⟨_, rfl, rfl⟩, ⟨_, rfl, rfl⟩⟩

/-- HaltEndsOnlyByReset: a halted core that steps on `RESET` and on `SAMPLE`. -/
theorem witness_HaltEndsOnlyByReset :
    stuck.halted = true ∧ (∃ t, Machine.step { stuck with port := [0xF0000#20] } = .next t ∧ t.halted = false) ∧
    (∃ t, Machine.step { stuck with port := [sampleWord] } = .next t ∧ t.halted = true) :=
  ⟨rfl, ⟨_, rfl, rfl⟩, ⟨_, rfl, rfl⟩⟩

/-- PrimitivesRoundOnceToNearestEven: finite operands, a non-zero divisor, and a sum just below the overflow. -/
theorem witness_PrimitivesRoundOnceToNearestEven :
    let big : F32 := 0x7F7FFFFF#32
    let half : F32 := 0x72FFFFFF#32
    f32IsFinite big = true ∧ f32IsFinite half = true ∧ f32Scaled half ≠ 0 ∧
    BelowOverflow (f32Scaled big + f32Scaled half) 1 ∧ BelowOverflow (f32Scaled big - f32Scaled half) 1 ∧
    BelowOverflow (f32Scaled f32One * f32Scaled big) (2 ^ 149) ∧
    BelowOverflow (f32Scaled big * 2 ^ 149) (f32Scaled f32One) ∧ f32IsFinite f32One = true ∧
    f32Scaled f32One ≠ 0 := by decide +kernel

/-- RoundHazIsNearestAwayFromZero, with a half below zero, and ConversionIsExactUpTo2Pow24 at its bound. -/
theorem witness_RoundHaz_Conversion :
    f32IsFinite 0xBF000000#32 = true ∧ roundHaz 0xBF000000#32 = -1 ∧ (16777216#32).toNat ≤ 2 ^ 24 := by
  decide +kernel

/-- NearZeroTestMeansNoTicks, DutyMappingStaysInRange and DutyMappingDecreases: the largest ordinary top value, and
the outputs 0 and 100. -/
theorem witness_DutyMapping :
    let c : Cfg := { testCfg with maxc := 0xFFFF#32, ocrW := 16 }
    c.wellFormed = true ∧ c.topOrdinary ∧ f32Within c.outMin c.outMax 0x00000000#32 = true ∧
    f32Within c.outMin c.outMax 0x42C80000#32 = true ∧
    f32IsFinite 0x00000000#32 = true ∧ f32IsFinite 0x42C80000#32 = true ∧ 0 ≤ f32Scaled 0x00000000#32 ∧
    f32Scaled 0x00000000#32 ≤ f32Scaled 0x42C80000#32 ∧ f32Scaled 0x42C80000#32 ≤ 100 * 2 ^ 149 := by decide +kernel

/-- HalfFilterStaysBelievable: with the smallest bound it allows. -/
theorem witness_HalfFilterStaysBelievable :
    let c : Cfg := { testCfg with rpsMax := PosF32.ofPattern 0x0D800000 }
    c.wellFormed = true ∧ c.alpha = 0x3F000000#32 ∧ c.speedsOrdinary ∧ (2 ^ 49 : Int) ≤ f32Scaled c.rpsMax.bits ∧
    FiniteUpTo (f32Scaled c.rpsMax.bits).toNat base.motor0.frps ∧
    FiniteUpTo (f32Scaled c.rpsMax.bits).toNat c.rpsMax.bits := by decide +kernel

/-- HalfFilterStaysBelievable: an estimator update that answers a next state. -/
theorem witness_HalfFilterStaysBelievable_next :
    ∃ t, exec .rps0 { base with motor0 := { base.motor0 with measReady := true } } = .next t := ⟨_, rfl⟩

/-- CollaboratorAnswersWithinBounds: the initial state, and that state cleared, on a finite error. -/
theorem witness_CollaboratorAnswersWithinBounds :
    let p : PiState := testCfg.pi.init testCfg.kp testCfg.kd testCfg.kiPeriod testCfg.outMin testCfg.outMax
    testCfg.wellFormed = true ∧ PiReachable testCfg.pi testCfg p ∧ (p = p ∨ p = testCfg.pi.clear p) ∧
    (testCfg.pi.clear p = p ∨ testCfg.pi.clear p = testCfg.pi.clear p) ∧ f32IsFinite 0x40000000#32 = true :=
  ⟨by decide +kernel, .init, .inl rfl, .inr rfl, by decide +kernel⟩

/-- A collaborator that answers outside the bounds is not a lawful one, and the constant one is. -/
theorem test_unlawful_collaborator :
    ¬ Collaborator.Lawful { Collaborator.constant with advance := fun s _ _ => (s, 0x43000000#32) } testCfg ∧
    Collaborator.constant.Lawful testCfg :=
  ⟨fun h => absurd (h _ testCfg.tS 0#32 .init (by decide +kernel)) (by decide +kernel),
    Collaborator.constant_lawful (by decide +kernel)⟩

/-- TickPositionCountsOverflows: a sequence of `OVF` operations. -/
theorem witness_TickPositionCountsOverflows :
    let f : Nat → State := fun n => { base with roll := BitVec.ofNat 16 n }
    (f 0).halted = false ∧ ∀ n, exec .ovf (f n) = .next (f (n + 1)) := by
  refine ⟨rfl, fun n => ?_⟩
  have e : BitVec.ofNat 16 (n + 1) = BitVec.ofNat 16 n + 1#16 := BitVec.ofNat_add n 1
  change Host.Outcome.next _ = Host.Outcome.next { base with roll := BitVec.ofNat 16 (n + 1) }
  rw [e]
  rfl

/-- TickExtensionMeasuresElapsedTicks: three ticks of motor 1 across a wrap of the timer. -/
theorem witness_TickExtensionMeasuresElapsedTicks :
    let s : State := { base with port := [0x3FFFE#20, 0x10000#20, 0x30001#20, 0x60000#20] }
    s.cfg.wellFormed = true ∧ s.halted = false ∧
    s.port = pulseEvent .m1 0xFFFE#16 :: advEvents 3 0xFFFE#16 ++
      pulseEvent .m1 (advTimer 3 0xFFFE#16) :: [0x60000#20] := by decide +kernel

/-- CommandRunsForItsDuration: two samples left, one pass and two passes presented. -/
theorem witness_CommandRunsForItsDuration :
    let s : Nat → State := fun n =>
      { running with elapsed := 374#32, port := (List.replicate n (sampleWord :: passEvents)).flatten ++ [] }
    (∀ n, (s n).port = (List.replicate n (sampleWord :: passEvents)).flatten ++ []) ∧
    (s 1).cfg.wellFormed = true ∧ (s 1).halted = false ∧ (s 1).running = true ∧ (s 1).phase = 0#3 ∧
    (s 1).elapsed.toNat < (s 1).cfg.duration.toNat ∧ (s 1).elapsed.toNat + 1 < (s 1).cfg.duration.toNat ∧
    (s 2).elapsed.toNat + 2 = (s 2).cfg.duration.toNat :=
  ⟨fun _ => rfl, by decide +kernel⟩

end Sys2Proof.Tests
end

/-!
# Proofs: scope (00_scope.md)

The arithmetic of R11, the configuration check of R9, and what a step does first (R13). The rounding claims all
come down to one lemma: a sign packed with rounded magnitude bits is nearest to the signed exact value, ties to even.
-/

section

namespace Sys2Proof.Machine

open Sys2Proof

/-! ### Values as sign and magnitude -/

/-- A finite pattern is one whose magnitude bits lie below those of infinity. -/
theorem isFinite_iff (x : F32) : f32IsFinite x = true ↔ f32MagnitudeBits x < f32Infinity := by
  simp [f32IsFinite]

/-- A value is greater than zero exactly when the sign is clear and a magnitude bit is set. -/
theorem scaled_pos_iff (x : F32) : 0 < f32Scaled x ↔ f32Sign x = false ∧ 0 < f32MagnitudeBits x := by
  have hzero := magnitude_zero_iff x
  unfold f32Scaled
  cases f32Sign x
  · simp only [Bool.false_eq_true, if_false, true_and]; omega
  · simp only [if_true, Bool.true_eq_false, false_and, iff_false]; omega

/-- With the sign clear the magnitude bits are the whole pattern. -/
theorem magnitudeBits_of_sign_false {x : F32} (h : f32Sign x = false) : f32MagnitudeBits x = x.toNat := by
  unfold f32Sign at h
  rw [BitVec.msb_eq_decide, decide_eq_false_iff_not] at h
  unfold f32MagnitudeBits
  omega

/-- An integer is its absolute value under its own sign. -/
theorem signed_natAbs (z : Int) :
    (if decide (z < 0) = true then -(z.natAbs : Int) else (z.natAbs : Int)) = z := by
  by_cases h : z < 0
  · rw [if_pos (decide_eq_true h)]; omega
  · rw [if_neg (by simpa using h)]; omega

/-! ### Rounding to nearest, ties to even (R11) -/

/-- A fraction below the overflow point rounds to finite magnitude bits. -/
theorem roundBits_lt_infinity {num den : Nat} (hd : 0 < den) (h : BelowOverflow num den) :
    f32RoundBits num den < f32Infinity := by
  by_contra hc
  have hmax : f32MagnitudeOf (f32Infinity - 1) = (2 ^ 24 - 1) * 2 ^ 253 := by decide +kernel
  have hinf : f32MagnitudeOf f32Infinity = 2 ^ 24 * 2 ^ 253 := by decide +kernel
  have hmono : f32MagnitudeOf f32Infinity ≤ f32MagnitudeOf (f32RoundBits num den) :=
    magnitudeOf_strictMono.monotone (Nat.le_of_not_lt hc)
  have hnear := (roundBits_nearest num den (f32Infinity - 1) hd).1
  have hge : (2 ^ 24 * 2 ^ 253 : Int) * den ≤ f32MagnitudeOf (f32RoundBits num den) * den := by
    rw [hinf] at hmono
    exact_mod_cast Nat.mul_le_mul_right den hmono
  rw [hmax] at hnear
  push_cast at hnear
  simp only [BelowOverflow, Nat.abs_cast] at h
  rw [abs_of_nonneg (by omega), le_abs] at hnear
  rcases hnear with hnear | hnear <;> omega

/-- No signed magnitude is nearer to `num / den` than the rounded one, and on a tie that has an even last place.
A magnitude taken negative is at least as far away as 0 is. -/
theorem roundBits_nearest_signed {num den : Nat} (hd : 0 < den) {z : Int} {b : Nat} (hz : |z| = f32MagnitudeOf b) :
    |(f32MagnitudeOf (f32RoundBits num den) : Int) * den - num| ≤ |z * den - num| ∧
    (z ≠ f32MagnitudeOf (f32RoundBits num den) →
      |(f32MagnitudeOf (f32RoundBits num den) : Int) * den - num| = |z * den - num| →
      f32RoundBits num den % 2 = 0) := by
  rcases (abs_eq (Int.natCast_nonneg _)).1 hz with rfl | rfl
  · obtain ⟨hle, heven⟩ := roundBits_nearest num den b hd
    exact ⟨hle, fun hne => heven fun hb => hne (by rw [hb])⟩
  · obtain ⟨hle, heven⟩ := roundBits_nearest num den 0 hd
    have hzero : |((f32MagnitudeOf 0 : Nat) : Int) * den - num| = num := by simp [magnitudeOf_small 0]
    have hnonneg : (0 : Int) ≤ f32MagnitudeOf b * den := by positivity
    have hfar : |-(f32MagnitudeOf b : Int) * den - num| = f32MagnitudeOf b * den + num := by
      rw [← abs_neg, abs_of_nonneg (by rw [neg_mul]; omega)]; ring
    rw [hzero] at hle heven
    rw [hfar]
    refine ⟨by omega, fun hne heq => heven (fun hb => hne ?_) (by omega)⟩
    have hprod : f32MagnitudeOf b * den = 0 := by
      zify; omega
    have hb0 : f32MagnitudeOf b = 0 := (Nat.mul_eq_zero.1 hprod).resolve_right hd.ne'
    rw [hb0, ← hb]; decide

/-- Negating both numbers keeps their distance. -/
theorem abs_signed_mul_sub (neg : Bool) (x d n : Int) :
    |(if neg then -x else x) * d - (if neg then -n else n)| = |x * d - n| := by
  cases neg
  · rfl
  · rw [← abs_neg]; congr 1; simp only [if_true]; ring

/-- Packing a sign with the rounded magnitude bits of `num / den` gives the binary32 nearest to the signed fraction,
ties to even. -/
theorem pack_roundBits_nearestEven (neg : Bool) {num den : Nat} (hd : 0 < den) (h : BelowOverflow num den) :
    NearestEven (if neg then -(num : Int) else num) den (f32Pack neg (f32RoundBits num den)) := by
  have hfin := roundBits_lt_infinity hd h
  refine ⟨pack_isFinite _ _ hfin, fun c _ => ?_⟩
  -- the value of `c` seen from the side of the exact value
  obtain ⟨z, hz⟩ : ∃ z : Int, f32Scaled c = if neg then -z else z := by
    cases neg
    · exact ⟨f32Scaled c, rfl⟩
    · exact ⟨-f32Scaled c, by simp⟩
  have habs : |z| = f32MagnitudeOf (f32MagnitudeBits c) := by
    have hc := scaled_abs c
    rw [hz] at hc
    cases neg
    · exact hc
    · simp only [if_true, abs_neg] at hc; exact hc
  obtain ⟨hle, heven⟩ := roundBits_nearest_signed (num := num) hd habs
  rw [pack_scaled _ _ hfin, hz, abs_signed_mul_sub, abs_signed_mul_sub, pack_toNat _ _ hfin]
  refine ⟨hle, fun hne heq => ?_⟩
  have hbits : f32RoundBits num den % 2 = 0 := heven (fun hzm => hne (by rw [hzm])) heq
  split <;> omega

/-- A fraction below the overflow point is rounded to the binary32 nearest to it, ties to even. -/
theorem round_nearestEven (op : FloatOp) (a b : F32) (neg : Bool) {num den : Nat} (hd : 0 < den)
    (h : BelowOverflow num den) :
    NearestEven (if neg then -(num : Int) else num) den (f32Round op a b neg num den) := by
  unfold f32Round
  rw [if_pos (roundBits_lt_infinity hd h)]
  exact pack_roundBits_nearestEven neg hd h

/-- An exact sum below the overflow point is rounded to the binary32 nearest to it, ties to even, whatever the sign
of a zero. -/
theorem roundSum_nearestEven (op : FloatOp) (a b : F32) (zeroNeg : Bool) {z : Int} (h : BelowOverflow z 1) :
    NearestEven z 1 (f32RoundSum op a b zeroNeg z) := by
  unfold f32RoundSum
  have hz : BelowOverflow (z.natAbs : Nat) (1 : Nat) := by simpa [BelowOverflow] using h
  split
  next h0 =>
    subst h0
    have hpack := pack_roundBits_nearestEven zeroNeg (num := 0) (den := 1) Nat.one_pos hz
    rw [roundBits_zero 1 Nat.one_pos] at hpack
    simpa using hpack
  next =>
    have hround := round_nearestEven op a b (decide (z < 0)) Nat.one_pos hz
    rw [signed_natAbs] at hround
    exact_mod_cast hround

/-- A fraction is the same with both its terms negated. -/
theorem nearestEven_neg_neg {num den : Int} {r : F32} (h : NearestEven num den r) : NearestEven (-num) (-den) r := by
  obtain ⟨hfin, hall⟩ := h
  refine ⟨hfin, fun c hc => ?_⟩
  have hflip : ∀ x : Int, |x * -den - -num| = |x * den - num| := fun x => by
    rw [← abs_neg]; congr 1; ring
  rw [hflip, hflip]
  exact hall c hc

/-! ### The primitives -/

/-- `fadd` is the sum rounded once. -/
theorem fadd_nearestEven {a b : F32} (ha : f32IsFinite a = true) (hb : f32IsFinite b = true)
    (h : BelowOverflow (f32Scaled a + f32Scaled b) 1) : NearestEven (f32Scaled a + f32Scaled b) 1 (fadd a b) := by
  rw [fadd, if_pos (by rw [ha, hb]; rfl)]
  exact roundSum_nearestEven _ _ _ _ h

/-- `fsub` is the difference rounded once. -/
theorem fsub_nearestEven {a b : F32} (ha : f32IsFinite a = true) (hb : f32IsFinite b = true)
    (h : BelowOverflow (f32Scaled a - f32Scaled b) 1) : NearestEven (f32Scaled a - f32Scaled b) 1 (fsub a b) := by
  rw [fsub, if_pos (by rw [ha, hb]; rfl)]
  exact roundSum_nearestEven _ _ _ _ h

/-- `fmul` is the product rounded once. -/
theorem fmul_nearestEven {a b : F32} (ha : f32IsFinite a = true) (hb : f32IsFinite b = true)
    (h : BelowOverflow (f32Scaled a * f32Scaled b) (2 ^ 149)) :
    NearestEven (f32Scaled a * f32Scaled b) (2 ^ 149) (fmul a b) := by
  rw [fmul, if_pos (by rw [ha, hb]; rfl)]
  have hov : BelowOverflow (f32Magnitude a * f32Magnitude b : Nat) f32Unit := by
    simpa [BelowOverflow, abs_mul, scaled_abs, f32Unit] using h
  have hround := round_nearestEven .mul a b (f32Sign a != f32Sign b) unit_pos hov
  rw [signed_product] at hround
  exact_mod_cast hround

/-- Sign and magnitude of an exact quotient: a negative divisor moves its sign to the dividend. -/
theorem signed_quotient (a b : F32) :
    f32Scaled a * 2 ^ 149 = (if f32Sign b then -1 else 1) *
      (if (f32Sign a != f32Sign b) = true then -((f32Magnitude a * f32Unit : Nat) : Int)
        else ((f32Magnitude a * f32Unit : Nat) : Int)) := by
  unfold f32Scaled f32Unit
  cases f32Sign a <;> cases f32Sign b <;> simp

/-- `fdiv` by a number that is not zero is the quotient rounded once. -/
theorem fdiv_nearestEven {a b : F32} (ha : f32IsFinite a = true) (hb : f32IsFinite b = true)
    (hb0 : f32Scaled b ≠ 0) (h : BelowOverflow (f32Scaled a * 2 ^ 149) (f32Scaled b)) :
    NearestEven (f32Scaled a * 2 ^ 149) (f32Scaled b) (fdiv a b) := by
  have hmag : f32Magnitude b ≠ 0 := by
    rw [← scaled_natAbs]; exact Int.natAbs_ne_zero.2 hb0
  have hov : BelowOverflow (f32Magnitude a * f32Unit : Nat) (f32Magnitude b : Nat) := by
    simpa [BelowOverflow, abs_mul, scaled_abs, f32Unit] using h
  rw [fdiv, if_pos (by simp [ha, hb, hmag])]
  have hround := round_nearestEven .div a b (f32Sign a != f32Sign b) (Nat.pos_of_ne_zero hmag) hov
  rw [signed_quotient, f32Scaled]
  cases hs : f32Sign b
  · rw [hs] at hround
    simpa only [Bool.false_eq_true, if_false, one_mul] using hround
  · rw [hs] at hround
    simpa only [if_true, neg_mul, one_mul] using nearestEven_neg_neg hround

/-- `u32_to_f32` is the number rounded once. -/
theorem u32ToF32_nearestEven (n : BitVec 32) : NearestEven (n.toNat * 2 ^ 149) 1 (u32ToF32 n) := by
  have hov : BelowOverflow (n.toNat * f32Unit : Nat) (1 : Nat) := by
    have hn := n.isLt
    simp only [BelowOverflow, Nat.abs_cast, f32Unit]
    push_cast
    omega
  have hround := pack_roundBits_nearestEven false Nat.one_pos hov
  exact_mod_cast hround

/-- Settles O45: each primitive is `f32Round` of the exact value's sign and magnitude, which is nearest. -/
theorem primitivesRoundOnceToNearestEven : Obligations.PrimitivesRoundOnceToNearestEven :=
  ⟨fun _ _ ha hb => ⟨fadd_nearestEven ha hb, fsub_nearestEven ha hb, fmul_nearestEven ha hb,
    fdiv_nearestEven ha hb⟩, u32ToF32_nearestEven⟩

/-! ### Conversion and rounding to an integer (R11) -/

/-- Every number up to `2^24` is the value of a finite binary32: shifted left until it has 24 bits. -/
theorem exists_scaled_eq_nat {n : Nat} (h : n ≤ 2 ^ 24) :
    ∃ x : F32, f32IsFinite x = true ∧ f32Scaled x = n * 2 ^ 149 := by
  rcases Nat.eq_zero_or_pos n with rfl | hn
  · exact ⟨f32Zero, zero_value.1, by simpa using zero_value.2⟩
  rcases Nat.lt_or_ge n (2 ^ 23) with hlt | hge
  · have hlog : Nat.log2 n < 23 := (Nat.log2_lt hn.ne').2 hlt
    have hlo := Nat.log2_self_le hn.ne'
    have hhi := Nat.lt_log2_self (n := n)
    obtain ⟨e, he⟩ : ∃ e, Nat.log2 n + e = 23 := ⟨23 - Nat.log2 n, by omega⟩
    have h1 : 2 ^ 23 ≤ n * 2 ^ e := by
      rw [← he, pow_add]; exact Nat.mul_le_mul_right _ hlo
    have h2 : n * 2 ^ e ≤ 2 ^ 24 := by
      rw [show 24 = Nat.log2 n + 1 + e by omega, pow_add]; exact Nat.mul_le_mul_right _ hhi.le
    obtain ⟨x, hfin, hx⟩ := exists_scaled_eq _ (149 - e) h1 h2 (by omega)
    refine ⟨x, hfin, ?_⟩
    rw [hx, Nat.cast_mul, mul_assoc, Nat.cast_pow, Nat.cast_ofNat, ← pow_add, Nat.add_sub_cancel' (by omega)]
  · exact exists_scaled_eq n 149 hge h (by norm_num)

/-- Settles O47: the number is itself a binary32, and the conversion lies between it and it. -/
theorem conversionIsExactUpTo2Pow24 : Obligations.ConversionIsExactUpTo2Pow24 := by
  intro n hn
  obtain ⟨x, hx, hval⟩ := exists_scaled_eq_nat hn
  have hexact : f32Scaled x = (n.toNat * f32Unit : Nat) := by
    rw [hval, f32Unit]; push_cast; rfl
  obtain ⟨hfin, hlo, hhi⟩ := u32ToF32_between n x x hx (by rw [hexact, Nat.cast_mul]) hexact.ge
  exact ⟨hfin, by rw [← hval]; exact le_antisymm hhi hlo⟩

/-- Rounding a magnitude: at most half a unit away, and on a tie upwards. -/
theorem roundHaz_magnitude (m unit : Nat) (hu : 0 < unit) :
    2 * |((2 * m + unit) / (2 * unit) : Nat) * (unit : Int) - m| ≤ unit ∧
    (2 * |((2 * m + unit) / (2 * unit) : Nat) * (unit : Int) - m| = unit →
      (m : Int) < ((2 * m + unit) / (2 * unit) : Nat) * (unit : Int)) := by
  have hdm := Nat.div_add_mod' (2 * m + unit) (2 * unit)
  have hlt := Nat.mod_lt (2 * m + unit) (show 0 < 2 * unit by omega)
  generalize (2 * m + unit) / (2 * unit) = q at *
  have hq : q * (2 * unit) = 2 * (q * unit) := by ring
  rw [hq] at hdm
  rw [← Nat.cast_mul]
  generalize q * unit = p at *
  rcases abs_cases ((p : Int) - m) with ⟨e, -⟩ | ⟨e, -⟩ <;> rw [e] <;> omega

/-- Settles O46: `round_haz` rounds the magnitude and keeps the sign, which changes no distance. -/
theorem roundHazIsNearestAwayFromZero : Obligations.RoundHazIsNearestAwayFromZero := by
  intro x hx
  obtain ⟨hnear, htie⟩ := roundHaz_magnitude (f32Magnitude x) f32Unit unit_pos
  have hunit : ((f32Unit : Nat) : Int) = 2 ^ 149 := by rw [f32Unit]; norm_cast
  rw [hunit] at hnear htie
  have hval : roundHaz x = if f32Sign x then -(((2 * f32Magnitude x + f32Unit) / (2 * f32Unit) : Nat) : Int)
      else (((2 * f32Magnitude x + f32Unit) / (2 * f32Unit) : Nat) : Int) := by
    rw [roundHaz, if_pos hx]
  have habs : |roundHaz x| = (((2 * f32Magnitude x + f32Unit) / (2 * f32Unit) : Nat) : Int) := by
    rw [hval]; split <;> simp only [abs_neg, Nat.abs_cast]
  rw [scaled_abs, habs, hval, f32Scaled, abs_signed_mul_sub]
  exact ⟨hnear, htie⟩

/-! ### The configuration (R9) -/

/-- Settles O20: with the sign clear a pattern is its magnitude bits, and those of the type are 1 to `0x7F7FFFFF`. -/
theorem positiveParametersAreTheFinitePositives : Obligations.PositiveParametersAreTheFinitePositives := by
  intro x
  rw [isFinite_iff, scaled_pos_iff]
  constructor
  · rintro ⟨p, rfl⟩
    have hlt := p.index.isLt
    have hnat : p.bits.toNat = p.index.val + 1 := by
      rw [PosF32.bits, BitVec.toNat_ofNat, Nat.mod_eq_of_lt (by omega)]
    have hsign : f32Sign p.bits = false := by
      rw [f32Sign, BitVec.msb_eq_decide, decide_eq_false_iff_not]; omega
    rw [magnitudeBits_of_sign_false hsign, hnat, f32Infinity]
    exact ⟨by omega, hsign, by omega⟩
  · rintro ⟨hfin, hsign, hpos⟩
    rw [magnitudeBits_of_sign_false hsign] at hfin hpos
    rw [f32Infinity] at hfin
    refine ⟨⟨⟨x.toNat - 1, by omega⟩⟩, BitVec.eq_of_toNat_eq ?_⟩
    rw [PosF32.bits, BitVec.toNat_ofNat, Nat.sub_add_cancel hpos, Nat.mod_eq_of_lt x.isLt]

/-- `flt` of finite numbers is the order of their values. -/
theorem flt_iff {a b : F32} (ha : f32IsFinite a = true) (hb : f32IsFinite b = true) :
    flt a b = true ↔ f32Scaled a < f32Scaled b := by
  rw [flt, if_pos (by rw [ha, hb]; rfl), decide_eq_true_iff]

/-- The strict range test on `T_MIN` holds exactly of finite numbers strictly between 0 and 1. -/
theorem tMin_check_iff (x : F32) :
    (f32IsFinite x = true ∧ flt f32Zero x = true) ∧ flt x f32One = true ↔
      f32IsFinite x = true ∧ 0 < f32Scaled x ∧ f32Scaled x < 2 ^ 149 := by
  rw [and_assoc]
  refine and_congr_right fun hx => ?_
  rw [flt_iff zero_value.1 hx, flt_iff hx one_value.1, zero_value.2, one_value.2]

/-- Settles O19: the check is a conjunction, and each of its range tests is an order of values. -/
theorem configurationCheckIsRuleNine : Obligations.ConfigurationCheckIsRuleNine := by
  intro c
  simp only [Cfg.wellFormed, Bool.and_eq_true, beq_iff_eq, decide_eq_true_eq, tMin_check_iff, f32Within_iff,
    zero_value, one_value, hundred_value, true_and]
  constructor
  · rintro ⟨⟨⟨⟨⟨⟨⟨⟨hhw, hroll⟩, htick⟩, halpha⟩, htmin⟩, hdur⟩, hmax1⟩, hmax⟩, ⟨hmin, h0, -⟩, ⟨-, hout, hle, h100⟩⟩
    exact ⟨hhw, hroll, htick, halpha, htmin, hdur, hmax1, hmax, hmin, hout, h0, hle, h100⟩
  · rintro ⟨hhw, hroll, htick, halpha, htmin, hdur, hmax1, hmax, hmin, hout, h0, hle, h100⟩
    exact ⟨⟨⟨⟨⟨⟨⟨⟨hhw, hroll⟩, htick⟩, halpha⟩, htmin⟩, hdur⟩, hmax1⟩, hmax⟩, ⟨hmin, h0, hle.trans h100⟩,
      ⟨hmin, hout, hle, h100⟩⟩

/-! ### What a step does first (R13) -/

/-- With a well-formed configuration a step runs the operation of the word on the port. -/
theorem step_of_wellFormed {s : State} (h : s.cfg.wellFormed = true) :
    step s = exec (decodeEvent (fetchWord s)) (beginStep s) := by
  rw [step, if_pos h]

/-- The word in a step is the first one on the port. -/
theorem fetchWord_of_cons {s : State} {ev : EventWord} {rest : List EventWord} (h : s.port = ev :: rest) :
    fetchWord s = ev := by
  rw [fetchWord, h]

/-- An operation starts with the first word taken from the port and no action emitted. -/
theorem beginStep_of_cons {s : State} {ev : EventWord} {rest : List EventWord} (h : s.port = ev :: rest) :
    beginStep s = { s with port := rest, emitted := [] } := by
  rw [beginStep, h, List.tail_cons]

/-- Settles O16: the word taken is the first on the port, and its decoding is total. -/
theorem stepRunsTheDecodedOperation : Obligations.StepRunsTheDecodedOperation := by
  intro s i ev rest hcfg hport _ hdec
  have hi : decodeEvent ev = i := Except.ok.inj hdec
  rw [step_of_wellFormed hcfg, fetchWord_of_cons hport, beginStep_of_cons hport, hi]

/-- Settles O18: step tests the configuration before anything else. -/
theorem illFormedConfigurationIsRefused : Obligations.IllFormedConfigurationIsRefused := by
  intro s h
  rw [step, if_neg (by rw [h]; decide)]

end Sys2Proof.Machine

end

/-!
# Proofs: state (10_state.md)

What an operation can do to the state is said once, as the relation `Effect` with one constructor per rule that
writes a register. The writers of R42 are then one lemma per register over it, and an invariant of R43 is kept by
every step when it is kept by every effect, by `RESET` and by the advance of `PHASE`.
-/

section

namespace Sys2Proof.Machine

open Sys2Proof

/-! ### The effect of an operation -/

@[simp] theorem capture_eq (m : MotorId) (hw : Half) (s : State) :
    capture m hw s = s.updMotor m fun r => (r.latch (tickpos s.roll hw)).raiseMeas := rfl

@[simp] theorem rpsUpdate_eq (m : MotorId) (s : State) :
    rpsUpdate m s = s.updMotor m (MotorRegs.rpsUpdate s.cfg) := rfl

/-- `Effect op s u`: the operation `op`, other than `STEP` and `RESET`, can take `s` to `u`. One constructor per rule
that writes a register, with the conditions under which it writes. -/
inductive Effect : Instr → State → State → Prop where
  /-- Nothing is written: `IDLE`, a halted core (R196), or an operation whose condition does not hold. -/
  | keep {op : Instr} {s : State} : Effect op s s
  /-- R100. -/
  | overflow {s : State} : Effect .ovf s (bumpRoll s)
  /-- R110, R111. -/
  | edge0 {s : State} (hw : Half) : Effect (.edge0 hw) s (capture .m0 hw s)
  /-- R110, R112. -/
  | edge1 {s : State} (hw : Half) : Effect (.edge1 hw) s (capture .m1 hw s)
  /-- R140. -/
  | sample {s : State} : Effect .sample s (countSample (raiseTick s))
  /-- R160. -/
  | receive {s : State} (b : Byte) : Effect (.rx b) s (fillSlot b s)
  /-- R120, R121. -/
  | estimate0 {s : State} : Effect .rps0 s (rpsUpdate .m0 s)
  /-- R120, R122. -/
  | estimate1 {s : State} : Effect .rps1 s (rpsUpdate .m1 s)
  /-- R145 on an Idle core (R149). -/
  | consumeTick {s : State} : s.tickReady = true → s.running = false → Effect .pi s (clearTick s)
  /-- R145 on a Running core. -/
  | control {s : State} : s.halted = false → s.tickReady = true → s.running = true →
      Effect .pi s (emit .pwmClr ((clearTick s).updMotors (MotorRegs.piUpdate s.cfg.pi s.cfg)))
  /-- R161. -/
  | parse {s : State} (b : Byte) : s.running = false → s.pending = some b →
      Effect .parse s (startRun (classify (commandCode s.cfg b)) s)
  /-- R163 to R168: a class by itself. -/
  | command {op : Instr} {s : State} (cls : CommandClass) : op.startsCommand = true → s.running = false →
      (cls = .unknown ∨ op ∈ [Instr.forward, .backward, .left, .right, .stop]) → Effect op s (startRun cls s)
  /-- R171. -/
  | complete {s : State} : s.running = true →
      Effect .done s (emptySlot (stopRunning (s.updMotors (MotorRegs.shutOff s.cfg.pi s.cfg))))
  /-- R195. -/
  | fatal {op : Instr} {s : State} :
      op ∈ [Instr.reserved7, .reserved8, .reserved9, .reservedA, .reservedB, .reservedC, .reservedD, .reservedE] →
      Effect op s (raiseFatal .reservedEvent s)

/-- On a live core every answer of an operation other than `STEP` and `RESET` is one of its effects. -/
theorem effect_of_exec {op : Instr} {s u : State} (hlive : s.halted = false) (h : exec op s = .next u)
    (hstep : op ≠ .step) (hreset : op ≠ .reset) : Effect op s u := by
  rcases exec_cases hlive h hstep hreset with
    rfl | ⟨rfl, rfl⟩ | ⟨hw, rfl, rfl⟩ | ⟨hw, rfl, rfl⟩ | ⟨rfl, rfl⟩ | ⟨b, rfl, rfl⟩ | ⟨rfl, rfl⟩ | ⟨rfl, rfl⟩ |
    ⟨rfl, htick, hrun, rfl⟩ | ⟨rfl, htick, hrun, rfl⟩ | ⟨rfl, hrun, -, b, hb, rfl⟩ |
    ⟨hstart, -, hrun, cls, rfl, hcls⟩ | ⟨rfl, hrun, -, rfl⟩ | ⟨hres, rfl⟩
  · exact .keep
  · exact .overflow
  · exact .edge0 hw
  · exact .edge1 hw
  · exact .sample
  · exact .receive b
  · exact .estimate0
  · exact .estimate1
  · exact .consumeTick htick hrun
  · exact .control hlive htick hrun
  · exact .parse b hrun hb
  · exact .command cls hstart hrun hcls
  · exact .complete hrun
  · exact .fatal hres

/-- Every answer of an operation other than `RESET` is an effect of the operation that runs, after which `STEP`
advances `PHASE` (R190). -/
theorem exec_effect {i : Instr} {s t : State} (h : exec i s = .next t) (hi : i ≠ .reset) :
    ∃ u, Effect (operationOf i s) s u ∧ (t = u ∨ (i = .step ∧ t = advancePhase u)) := by
  rcases exec_operationOf h hi with ⟨-, rfl⟩ | ⟨hlive, u, hu, hstep, hreset, ht⟩
  · exact ⟨t, .keep, .inl rfl⟩
  · refine ⟨u, effect_of_exec hlive hu hstep hreset, ?_⟩
    rcases ht with ⟨-, rfl⟩ | ht
    · exact .inl rfl
    · exact .inr ht

/-- What holds after `RESET` and after every effect, and is kept by the advance of `PHASE`, holds after a step. -/
theorem step_establishes {Q : State → Prop} {s t : State} (h : step s = .next t)
    (hreset : Q (resetRegisters s.cfg.pi (beginStep s)))
    (heffect : ∀ op u, Effect op (beginStep s) u → Q u)
    (hphase : ∀ u, Q u → Q (advancePhase u)) : Q t := by
  obtain ⟨-, hexec⟩ := step_next h
  by_cases hi : decodeEvent (fetchWord s) = .reset
  · rw [hi] at hexec
    rw [execReset_next hexec]
    exact hreset
  · obtain ⟨u, hu, rfl | ⟨-, rfl⟩⟩ := exec_effect hexec hi
    · exact heffect _ _ hu
    · exact hphase _ (heffect _ _ hu)

/-! ### Refusals (R29, R43 (I-a)) -/

/-- A gated operation completes when it completes on a live core. -/
theorem whenLive_completes {s : State} {k : State → Result} (h : ∃ t, k s = .next t) :
    ∃ t, whenLive s k = .next t := by
  cases hh : s.halted
  · rwa [whenLive_of_live hh]
  · exact ⟨s, whenLive_of_halted hh k⟩

/-- A command class completes in every state. -/
theorem runClass_completes (cls : CommandClass) (s : State) : ∃ t, runClass cls s = .next t := by
  rw [runClass_eq]
  refine whenLive_completes ?_
  split
  · exact ⟨s, rfl⟩
  · exact ⟨_, rfl⟩

/-- `PARSE` completes, or finds `CMD_READY` with an empty slot. -/
theorem execParse_answers (s : State) :
    (∃ t, execParse s = .next t) ∨
    (execParse s = .refused .slotDisagrees ∧ s.cmdReady = true ∧ s.pending = none) := by
  unfold execParse
  cases hh : s.halted
  · rw [whenLive_of_live hh]
    split
    next hc =>
      rw [Bool.and_eq_true] at hc
      split
      next b hb => exact .inl (runClass_completes _ s)
      next hb => exact .inr ⟨rfl, hc.1, hb⟩
    next => exact .inl ⟨s, rfl⟩
  · exact .inl ⟨s, whenLive_of_halted hh _⟩

/-- Every operation but `STEP` and `PARSE` completes in every state. -/
theorem exec_completes {i : Instr} (hstep : i ≠ .step) (hparse : i ≠ .parse) (s : State) :
    ∃ t, exec i s = .next t := by
  cases i
  case step => exact absurd rfl hstep
  case parse => exact absurd rfl hparse
  case idle => exact ⟨s, rfl⟩
  case reset => exact ⟨_, rfl⟩
  case forward => exact runClass_completes .forward s
  case backward => exact runClass_completes .backward s
  case left => exact runClass_completes .left s
  case right => exact runClass_completes .right s
  case stop => exact runClass_completes .stop s
  case unknown => exact runClass_completes .unknown s
  all_goals
    simp only [exec, execOvf, execEdge0, execEdge1, execSample, execRx, execRps0, execRps1, execPi, execDone,
      execReserved7, execReserved8, execReserved9, execReservedA, execReservedB, execReservedC, execReservedD,
      execReservedE, reservedEvent]
    exact whenLive_completes ⟨_, rfl⟩

/-- `STEP` completes, or refuses a phase that names no operation, or refuses what `PARSE` refuses in phase 3. -/
theorem execStep_answers (s : State) :
    (∃ t, execStep s = .next t) ∨
    (execStep s = .refused .phaseOutOfRange ∧ 4 < s.phase.toNat) ∨
    (execStep s = .refused .slotDisagrees ∧ s.phase = 3#3 ∧ s.cmdReady = true ∧ s.pending = none) := by
  unfold execStep
  cases hh : s.halted
  · rw [whenLive_of_live hh]
    have hcompletes : (∃ u, runPhase s = .next u) → ∃ t, (runPhase s).mapNext advancePhase = .next t :=
      fun ⟨u, hu⟩ => ⟨advancePhase u, by rw [hu]; rfl⟩
    rcases runPhase_eq s with ⟨-, e⟩ | ⟨-, e⟩ | ⟨-, e⟩ | ⟨hp, e⟩ | ⟨-, e⟩ | ⟨hp, e⟩
    · exact .inl (hcompletes (e ▸ exec_completes (i := .rps0) nofun nofun s))
    · exact .inl (hcompletes (e ▸ exec_completes (i := .rps1) nofun nofun s))
    · exact .inl (hcompletes (e ▸ exec_completes (i := .pi) nofun nofun s))
    · rcases execParse_answers s with hnext | ⟨href, hready, hslot⟩
      · exact .inl (hcompletes (e ▸ hnext))
      · exact .inr (.inr ⟨by rw [e, href]; rfl, hp, hready, hslot⟩)
    · exact .inl (hcompletes (e ▸ exec_completes (i := .done) nofun nofun s))
    · exact .inr (.inl ⟨by rw [e]; rfl, hp⟩)
  · exact .inl ⟨s, whenLive_of_halted hh _⟩

/-- What an operation answers: a next state, or one of the two refusals in a state that raises it. -/
theorem exec_answers (i : Instr) (s : State) :
    (∃ t, exec i s = .next t) ∨
    (exec i s = .refused .phaseOutOfRange ∧ i = .step ∧ 4 < s.phase.toNat) ∨
    (exec i s = .refused .slotDisagrees ∧ operationOf i s = .parse ∧ s.cmdReady = true ∧ s.pending = none) := by
  by_cases hstep : i = .step
  · subst hstep
    rcases execStep_answers s with hnext | ⟨href, hp⟩ | ⟨href, hp, hslot⟩
    · exact .inl hnext
    · exact .inr (.inl ⟨href, rfl, hp⟩)
    · refine .inr (.inr ⟨href, ?_, hslot⟩)
      rw [operationOf, if_pos rfl, hp]; rfl
  by_cases hparse : i = .parse
  · subst hparse
    rcases execParse_answers s with hnext | ⟨href, hslot⟩
    · exact .inl hnext
    · exact .inr (.inr ⟨href, rfl, hslot⟩)
  exact .inl (exec_completes hstep hparse s)

/-- Settles O23: every operation answers a next state or one of the two refusals. -/
theorem refusalsComeFromExcludedStatesOnly : Obligations.RefusalsComeFromExcludedStatesOnly := by
  intro i s
  rcases exec_answers i s with ⟨t, e⟩ | ⟨e, hstate⟩ | ⟨e, hstate⟩ <;> rw [e]
  · exact ⟨nofun, nofun⟩
  · refine ⟨nofun, fun x hx => .inl ⟨?_, hstate⟩⟩
    injection hx with hx; exact hx.symm
  · refine ⟨nofun, fun x hx => .inr ⟨?_, hstate⟩⟩
    injection hx with hx; exact hx.symm

/-- Settles O22: (I-b) excludes the one refusal and (I-a) the other. -/
theorem stepCompletesUnderTheInvariants : Obligations.StepCompletesUnderTheInvariants := by
  intro s hcfg hslot hphase
  rw [step_of_wellFormed hcfg]
  rcases exec_answers (decodeEvent (fetchWord s)) (beginStep s) with
    hnext | ⟨-, -, hp⟩ | ⟨-, -, hready, hempty⟩
  · exact hnext
  · exact absurd hphase (Nat.not_le.2 hp)
  · have hagree : (beginStep s).cmdReady = (beginStep s).pending.isSome := hslot
    rw [hready, hempty] at hagree
    exact absurd hagree nofun

/-! ### The writers of each register (R42)

Below, the case that writes the register is named; in every other case the register is the one before. -/

section Writers

variable {op : Instr} {s u : State}

theorem Effect.cfg_eq (h : Effect op s u) : u.cfg = s.cfg := by
  cases h <;> simp

theorem Effect.port_eq (h : Effect op s u) : u.port = s.port := by
  cases h <;> simp

theorem Effect.phase_eq (h : Effect op s u) : u.phase = s.phase := by
  cases h <;> simp

theorem Effect.roll_writer (h : Effect op s u) (hne : u.roll ≠ s.roll) : op = .ovf := by
  cases h with
  | overflow => rfl
  | _ => simp at hne

theorem Effect.latch0_writer (h : Effect op s u)
    (hne : u.motor0.rawTick ≠ s.motor0.rawTick ∨ u.motor0.bufTick ≠ s.motor0.bufTick) : ∃ hw, op = .edge0 hw := by
  cases h with
  | edge0 hw => exact ⟨hw, rfl⟩
  | _ => simp at hne

theorem Effect.latch1_writer (h : Effect op s u)
    (hne : u.motor1.rawTick ≠ s.motor1.rawTick ∨ u.motor1.bufTick ≠ s.motor1.bufTick) : ∃ hw, op = .edge1 hw := by
  cases h with
  | edge1 hw => exact ⟨hw, rfl⟩
  | _ => simp at hne

theorem Effect.meas0_writer (h : Effect op s u) (hne : u.motor0.measReady ≠ s.motor0.measReady) :
    ((∃ hw, op = .edge0 hw) ∧ u.motor0.measReady = true) ∨ (op = .rps0 ∧ u.motor0.measReady = false) := by
  cases h with
  | edge0 hw => exact .inl ⟨⟨hw, rfl⟩, rfl⟩
  | estimate0 => exact .inr ⟨rfl, by simp⟩
  | _ => simp at hne

theorem Effect.meas1_writer (h : Effect op s u) (hne : u.motor1.measReady ≠ s.motor1.measReady) :
    ((∃ hw, op = .edge1 hw) ∧ u.motor1.measReady = true) ∨ (op = .rps1 ∧ u.motor1.measReady = false) := by
  cases h with
  | edge1 hw => exact .inl ⟨⟨hw, rfl⟩, rfl⟩
  | estimate1 => exact .inr ⟨rfl, by simp⟩
  | _ => simp at hne

theorem Effect.frps0_writer (h : Effect op s u) (hne : u.motor0.frps ≠ s.motor0.frps) : op = .rps0 := by
  cases h with
  | estimate0 => rfl
  | _ => simp at hne

theorem Effect.frps1_writer (h : Effect op s u) (hne : u.motor1.frps ≠ s.motor1.frps) : op = .rps1 := by
  cases h with
  | estimate1 => rfl
  | _ => simp at hne

theorem Effect.setpoint_writer (h : Effect op s u)
    (hne : u.motor0.setpoint ≠ s.motor0.setpoint ∨ u.motor1.setpoint ≠ s.motor1.setpoint) :
    op.startsCommand = true ∨ op = .done := by
  cases h with
  | parse _ _ _ => exact .inl rfl
  | command _ hstart _ _ => exact .inl hstart
  | complete _ => exact .inr rfl
  | _ => simp at hne

theorem Effect.output_writer (h : Effect op s u)
    (hne : u.motor0.pictl ≠ s.motor0.pictl ∨ u.motor1.pictl ≠ s.motor1.pictl ∨
      u.motor0.ocr ≠ s.motor0.ocr ∨ u.motor1.ocr ≠ s.motor1.ocr) : op = .pi ∨ op = .done := by
  cases h with
  | control _ _ _ => exact .inl rfl
  | complete _ => exact .inr rfl
  | _ => simp at hne

/-- A class with a direction is that of one of the five recognised codes (30_encoding.md R86). -/
theorem mem_recognised_of_classify {code : Code} (h : classify code ≠ .unknown) :
    code ∈ [0x77#7, 0x73#7, 0x61#7, 0x64#7, 0x78#7] := by
  by_contra hmem
  simp only [List.mem_cons, List.not_mem_nil, or_false, not_or] at hmem
  obtain ⟨hforward, hbackward, hleft, hright, hstop⟩ := hmem
  exact h (by rw [classify, if_neg hforward, if_neg hbackward, if_neg hleft, if_neg hright, if_neg hstop])

/-- A command that changes `DIR` has a class with a direction (44_command.md R168). -/
theorem ne_unknown_of_startRun_dir {cls : CommandClass} (hne : (startRun cls s).dir ≠ s.dir) : cls ≠ .unknown := by
  rintro rfl
  exact hne rfl

theorem Effect.dir_writer (h : Effect op s u) (hne : u.dir ≠ s.dir) :
    op ∈ [.forward, .backward, .left, .right, .stop] ∨
    (op = .parse ∧ ∃ b, s.pending = some b ∧
      ((b &&& s.cfg.cmdMask).setWidth 7 : Code) ∈ [0x77#7, 0x73#7, 0x61#7, 0x64#7, 0x78#7]) := by
  cases h with
  | parse b _ hb =>
    exact .inr ⟨rfl, b, hb, mem_recognised_of_classify (ne_unknown_of_startRun_dir hne)⟩
  | command _ _ _ hcls => exact .inl (hcls.resolve_left (ne_unknown_of_startRun_dir hne))
  | _ => simp at hne

theorem Effect.tick_writer (h : Effect op s u) (hne : u.tickReady ≠ s.tickReady) :
    (op = .sample ∧ u.tickReady = true) ∨ (op = .pi ∧ u.tickReady = false) := by
  cases h with
  | sample => exact .inl ⟨rfl, by simp⟩
  | consumeTick _ _ => exact .inr ⟨rfl, rfl⟩
  | control _ _ _ => exact .inr ⟨rfl, rfl⟩
  | _ => simp at hne

theorem Effect.elapsed_writer (h : Effect op s u) (hne : u.elapsed ≠ s.elapsed) :
    (op = .sample ∧ u.elapsed = s.elapsed + 1#32) ∨ (op.startsCommand = true ∧ u.elapsed = 0#32) := by
  cases h with
  | sample =>
    refine .inl ⟨rfl, ?_⟩
    cases hrun : s.running
    · simp [hrun] at hne
    · simp [hrun]
  | parse _ _ _ => exact .inr ⟨rfl, by simp⟩
  | command _ hstart _ _ => exact .inr ⟨hstart, by simp⟩
  | _ => simp at hne

theorem Effect.slot_writer (h : Effect op s u) (hne : u.pending ≠ s.pending ∨ u.cmdReady ≠ s.cmdReady) :
    (∃ b, op = .rx b ∧ u.pending = some b ∧ u.cmdReady = true) ∨
    ((op.startsCommand = true ∨ op = .done) ∧ u.pending = none ∧ u.cmdReady = false) := by
  cases h with
  | receive b => exact .inl ⟨b, rfl, rfl, rfl⟩
  | parse _ _ _ => exact .inr ⟨.inl rfl, by simp⟩
  | command _ hstart _ _ => exact .inr ⟨.inl hstart, by simp⟩
  | complete _ => exact .inr ⟨.inr rfl, rfl, rfl⟩
  | _ => simp at hne

theorem Effect.running_writer (h : Effect op s u) (hne : u.running ≠ s.running) :
    (op.startsCommand = true ∧ u.running = true) ∨ (op = .done ∧ u.running = false) := by
  cases h with
  | parse _ _ _ => exact .inl ⟨rfl, by simp⟩
  | command _ hstart _ _ => exact .inl ⟨hstart, by simp⟩
  | complete _ => exact .inr ⟨rfl, rfl⟩
  | _ => simp at hne

theorem Effect.halt_writer (h : Effect op s u) (hne : u.halted ≠ s.halted ∨ u.hcause ≠ s.hcause) :
    op ∈ [.reserved7, .reserved8, .reserved9, .reservedA, .reservedB, .reservedC, .reservedD, .reservedE] := by
  cases h with
  | fatal hres => exact hres
  | _ => simp at hne

theorem Effect.emitted_writer (h : Effect op s u) (hne : u.emitted ≠ s.emitted) :
    op = .pi ∧ u.emitted = s.emitted ++ [.pwmClr] ∧ s.halted = false ∧ s.tickReady = true ∧ s.running = true := by
  cases h with
  | control hlive htick hrun => exact ⟨rfl, rfl, hlive, htick, hrun⟩
  | _ => simp at hne

end Writers

/-- A flag that has risen was written by the one operation that sets it. -/
theorem set_of_rises {a b : Bool} {sets clears : Prop} (h : b ≠ a → (sets ∧ b = true) ∨ (clears ∧ b = false))
    (ha : a = false) (hb : b = true) : sets := by
  subst ha hb
  exact ((h nofun).resolve_right fun hc => nomatch hc.2).1

/-- A flag that has fallen was written by the one operation that clears it. -/
theorem clear_of_falls {a b : Bool} {sets clears : Prop} (h : b ≠ a → (sets ∧ b = true) ∨ (clears ∧ b = false))
    (ha : a = true) (hb : b = false) : clears := by
  subst ha hb
  exact ((h nofun).resolve_left fun hc => nomatch hc.2).1

/-- Settles O35: the writer of each register over the effect of the operation; after it `STEP` writes `PHASE` alone. -/
theorem eachRegisterHasItsWriters : Obligations.EachRegisterHasItsWriters := by
  intro i s t hexec hi op
  obtain ⟨u, hu, ht⟩ := exec_effect hexec hi
  obtain ⟨p, rfl, hp⟩ : ∃ p, t = { u with phase := p } ∧ (p ≠ u.phase → i = .step) := by
    rcases ht with rfl | ⟨hstep, rfl⟩
    · exact ⟨t.phase, rfl, absurd rfl⟩
    · exact ⟨_, rfl, fun _ => hstep⟩
  exact ⟨hu.roll_writer, hu.latch0_writer, hu.latch1_writer, set_of_rises hu.meas0_writer,
    set_of_rises hu.meas1_writer, clear_of_falls hu.meas0_writer, clear_of_falls hu.meas1_writer,
    hu.frps0_writer, hu.frps1_writer, hu.setpoint_writer, hu.output_writer, hu.dir_writer,
    set_of_rises hu.tick_writer, clear_of_falls hu.tick_writer, hu.elapsed_writer, hu.slot_writer,
    set_of_rises hu.running_writer, clear_of_falls hu.running_writer, fun hne => hp (hu.phase_eq ▸ hne),
    hu.halt_writer, hu.port_eq⟩

/-- Settles O36: `RESET`, every effect and the advance of `PHASE` keep the configuration. -/
theorem configurationIsNeverWritten : Obligations.ConfigurationIsNeverWritten := by
  intro s t h
  exact step_establishes (Q := fun u => u.cfg = s.cfg) h rfl (fun _ _ hu => hu.cfg_eq) (fun _ hu => hu)

/-! ### The actions of a step (R39) -/

/-- `PI` is the operation of phase 2 alone (30_encoding.md R84). -/
theorem phase_eq_two_of_pi : ∀ phase : BitVec 3, (phaseInstr phase).getD .step = .pi → phase = 2#3 := by decide

/-- No event word decodes to a phase operation: `PI` runs only as the body of `STEP` in phase 2 (30_encoding.md R84). -/
theorem decodeEvent_step_of_operationOf_pi {ev : EventWord} {s : State}
    (h : operationOf (decodeEvent ev) s = .pi) : decodeEvent ev = .step ∧ s.phase = 2#3 := by
  unfold operationOf at h
  split at h
  next hstep => exact ⟨hstep, phase_eq_two_of_pi s.phase h⟩
  next =>
    unfold decodeEvent at h
    split at h <;> cases h

/-- Settles O37: a step begins with no action, and the one effect that emits is `PI`'s control update. -/
theorem pwmClearComesFromPiAlone : Obligations.PwmClearComesFromPiAlone := by
  intro s t h
  obtain ⟨-, hexec⟩ := step_next h
  by_cases hi : decodeEvent (fetchWord s) = .reset
  · rw [hi] at hexec
    rw [execReset_next hexec]
    exact .inl rfl
  obtain ⟨u, hu, ht⟩ := exec_effect hexec hi
  have hemitted : t.emitted = u.emitted := by rcases ht with rfl | ⟨-, rfl⟩ <;> rfl
  rw [hemitted]
  by_cases hne : u.emitted = (beginStep s).emitted
  · exact .inl hne
  · obtain ⟨hop, hclear, hlive, htick, hrun⟩ := hu.emitted_writer hne
    exact .inr ⟨hclear, hlive, htick, hrun, decodeEvent_step_of_operationOf_pi hop⟩

/-! ### The control invariants (R43 (I-a), (I-b), (I-e), (I-f)) -/

section Invariants

variable {op : Instr} {s u : State}

theorem Effect.slotAgrees (h : Effect op s u) (hs : SlotAgrees s) : SlotAgrees u := by
  cases h with
  | receive b => rfl
  | complete _ => rfl
  | parse _ _ _ => simp [SlotAgrees]
  | command _ _ _ _ => simp [SlotAgrees]
  | _ => simpa [SlotAgrees] using hs

/-- (I-e) speaks of the setpoints, `RUNNING` and `RPS_ON` alone. -/
theorem setpointsFollowRunning_of_eq (h0 : u.motor0.setpoint = s.motor0.setpoint)
    (h1 : u.motor1.setpoint = s.motor1.setpoint) (hrun : u.running = s.running) (hcfg : u.cfg = s.cfg)
    (hs : SetpointsFollowRunning s) : SetpointsFollowRunning u := by
  rw [SetpointsFollowRunning, h0, h1, hrun, hcfg]
  exact hs

theorem Effect.setpointsFollowRunning (h : Effect op s u) (hs : SetpointsFollowRunning s) :
    SetpointsFollowRunning u := by
  cases h with
  | parse _ _ _ => simp [SetpointsFollowRunning]
  | command _ _ _ _ => simp [SetpointsFollowRunning]
  | complete _ => exact ⟨rfl, rfl⟩
  | _ => exact setpointsFollowRunning_of_eq (by simp) (by simp) (by simp) (by simp) hs

theorem Effect.haltHasCause (h : Effect op s u) (hs : HaltHasCause s) : HaltHasCause u := by
  cases h with
  | fatal _ => rfl
  | _ => simpa [HaltHasCause] using hs

theorem Effect.controlInv (h : Effect op s u) (hs : ControlInv s) : ControlInv u := by
  obtain ⟨hslot, hphase, hset, hhalt⟩ := hs
  exact ⟨h.slotAgrees hslot, by rw [PhaseInRange, h.phase_eq]; exact hphase, h.setpointsFollowRunning hset,
    h.haltHasCause hhalt⟩

/-- The advance of `PHASE` is modulo 5. -/
theorem advancePhase_phaseInRange (s : State) : PhaseInRange (advancePhase s) := by
  have hlt : (s.phase.toNat + 1) % 5 < 5 := Nat.mod_lt _ (by norm_num)
  simp only [PhaseInRange, advancePhase_phase, BitVec.toNat_ofNat]
  omega

theorem resetRegisters_controlInv (c : Collaborator) (s : State) : ControlInv (resetRegisters c s) :=
  ⟨rfl, Nat.zero_le _, ⟨rfl, rfl⟩, rfl⟩

/-! ### The direction outputs (R38) -/

/-- Every entry of a legal table is legal. -/
theorem legalDir_of_directionOf {table : DirTab} {cls : CommandClass} {d : Dir} (h : table.Legal)
    (hd : directionOf table cls = some d) : LegalDir d := by
  obtain ⟨hforward, hbackward, hleft, hright, hstop⟩ := h
  cases cls with
  | forward => cases hd; exact hforward
  | backward => cases hd; exact hbackward
  | left => cases hd; exact hleft
  | right => cases hd; exact hright
  | stop => cases hd; exact hstop
  | unknown => cases hd

/-- The start of a command drives an entry of the table or leaves the outputs. -/
theorem startRun_legalDir (cls : CommandClass) (htable : s.cfg.dirtab.Legal) (hdir : LegalDir s.dir) :
    LegalDir (startRun cls s).dir := by
  rw [startRun_dir]
  cases hd : directionOf s.cfg.dirtab cls with
  | none => exact hdir
  | some d => exact legalDir_of_directionOf htable hd

theorem Effect.legalDir (h : Effect op s u) (htable : s.cfg.dirtab.Legal) (hdir : LegalDir s.dir) :
    LegalDir u.dir := by
  cases h with
  | parse _ _ _ => exact startRun_legalDir _ htable hdir
  | command cls _ _ _ => exact startRun_legalDir cls htable hdir
  | _ => simpa using hdir

end Invariants

/-- Settles O41: every effect keeps the four invariants, and the advance of `PHASE` keeps it in range. -/
theorem everyStepKeepsControlInvariants : Obligations.EveryStepKeepsControlInvariants := by
  intro s t hs h
  have hbegin : ControlInv (beginStep s) := hs
  refine step_establishes h (resetRegisters_controlInv _ _) (fun _ _ hu => hu.controlInv hbegin) ?_
  intro u ⟨hslot, _, hset, hhalt⟩
  exact ⟨hslot, advancePhase_phaseInRange u, hset, hhalt⟩

/-- Settles O58: the table is never written, and only the start of a command drives an entry of it. -/
theorem everyStepKeepsDirectionsLegal : Obligations.EveryStepKeepsDirectionsLegal := by
  intro s t htable hdir h
  refine ⟨configurationIsNeverWritten s t h ▸ htable, ?_⟩
  refine step_establishes (Q := fun u => LegalDir u.dir) h ?_ (fun _ _ hu => hu.legalDir htable hdir) (fun _ hu => hu)
  rw [resetRegisters_dir]
  decide

/-! ### Values that scale exactly

Every finite number times a small power of two is a number again, so that a bound on an exact product by such a
multiple is a bound on the rounded product. -/

/-- A significand of at most 24 bits at a shift up to 252 is the value of a finite binary32: doubled until it has all
24 bits, or until the shift is used up. -/
theorem exists_finite_of_significand {n s : Nat} (hn : n ≤ 2 ^ 24) (hs : s ≤ 252) :
    ∃ x : F32, f32IsFinite x = true ∧ f32Scaled x = n * 2 ^ s := by
  induction s generalizing n with
  | zero =>
    have hfin : n < f32Infinity := by rw [f32Infinity]; omega
    refine ⟨f32Pack false n, pack_isFinite _ _ hfin, ?_⟩
    rw [pack_scaled _ _ hfin, magnitudeOf_small n hn]
    simp
  | succ s ih =>
    rcases Nat.lt_or_ge n (2 ^ 23) with hlt | hge
    · obtain ⟨x, hfin, hx⟩ := ih (n := 2 * n) (by omega) (by omega)
      refine ⟨x, hfin, ?_⟩
      rw [hx, pow_succ]; push_cast; ring
    · exact exists_scaled_eq n (s + 1) hge hn hs

/-- A finite number that is not negative is a significand of at most 24 bits, all 24 of them used unless its shift
is 0. -/
theorem exists_significand {x : F32} (h0 : 0 ≤ f32Scaled x) :
    ∃ n s : Nat, n ≤ 2 ^ 24 ∧ f32Scaled x = n * 2 ^ s ∧ (s = 0 ∨ 2 ^ 23 ≤ n) := by
  rw [scaled_of_nonneg x h0, f32Magnitude, f32MagnitudeOf]
  generalize f32MagnitudeBits x = bits
  split
  next hlt => exact ⟨bits, 0, by omega, by simp, .inl rfl⟩
  next => exact ⟨2 ^ 23 + bits % 2 ^ 23, bits / 2 ^ 23 - 1, by omega, by push_cast; rfl, .inr (by omega)⟩

/-- A number between 0 and 1 times `2^j` is a number. -/
theorem exists_scaled_mul_two_pow {x : F32} {j : Nat} (h0 : 0 ≤ f32Scaled x) (h1 : f32Scaled x ≤ 2 ^ 149)
    (hj : j ≤ 103) : ∃ y : F32, f32IsFinite y = true ∧ f32Scaled y = f32Scaled x * 2 ^ j := by
  obtain ⟨n, s, hn, hx, hs⟩ := exists_significand h0
  have hshift : s ≤ 149 := by
    rcases hs with rfl | hn23
    · omega
    · have hle : 2 ^ s ≤ n * 2 ^ s := Nat.le_mul_of_pos_left _ (by omega)
      have hnat : n * 2 ^ s ≤ 2 ^ 149 := by rw [hx] at h1; exact_mod_cast h1
      exact (Nat.pow_le_pow_iff_right (by norm_num)).1 (hle.trans hnat)
  obtain ⟨y, hfin, hy⟩ := exists_finite_of_significand hn (s := s + j) (by omega)
  exact ⟨y, hfin, by rw [hy, hx, pow_add, mul_assoc]⟩

/-- The unit as an integer. -/
theorem unit_eq : ((f32Unit : Nat) : Int) = 2 ^ 149 := by rw [f32Unit]; norm_cast

/-- A bound in units, as an integer. -/
theorem finiteUpTo_iff {j : Nat} {x : F32} :
    FiniteUpTo (2 ^ j * f32Unit) x ↔ f32IsFinite x = true ∧ 0 ≤ f32Scaled x ∧ f32Scaled x ≤ 2 ^ j * 2 ^ 149 := by
  rw [FiniteUpTo, Nat.cast_mul, unit_eq]
  push_cast
  rfl

/-- The patterns of a positive parameter are finite and greater than zero (00_scope.md R9). -/
theorem posF32_bits (p : PosF32) : f32IsFinite p.bits = true ∧ 0 < f32Scaled p.bits :=
  (positiveParametersAreTheFinitePositives p.bits).1 ⟨p, rfl⟩

/-- `fgt` of finite numbers is the order of their values. -/
theorem fgt_iff {a b : F32} (ha : f32IsFinite a = true) (hb : f32IsFinite b = true) :
    fgt a b = true ↔ f32Scaled b < f32Scaled a := by
  rw [fgt, if_pos (by rw [ha, hb]; rfl), decide_eq_true_iff]

/-! ### The estimator stays within its bound (R43 (I-d), 42_rps_estimator.md R126 to R130) -/

/-- A weight between 0 and 1 times a number up to `2^j` is at most the weight times `2^j`, which is a number. -/
theorem fmul_weight_le {w x : F32} {j : Nat} (hj : j ≤ 103) (hw : f32IsFinite w = true) (hw0 : 0 ≤ f32Scaled w)
    (hw1 : f32Scaled w ≤ 2 ^ 149) (hx : FiniteUpTo (2 ^ j * f32Unit) x) :
    f32IsFinite (fmul w x) = true ∧ 0 ≤ f32Scaled (fmul w x) ∧ f32Scaled (fmul w x) ≤ f32Scaled w * 2 ^ j := by
  obtain ⟨hxfin, hx0, hxle⟩ := finiteUpTo_iff.1 hx
  obtain ⟨y, hyfin, hy⟩ := exists_scaled_mul_two_pow hw0 hw1 hj
  have hbetween := fmul_between w x f32Zero y hw hxfin zero_value.1 hyfin
    (by rw [zero_value.2, zero_mul]; exact mul_nonneg hw0 hx0)
    (by rw [hy, unit_eq, mul_assoc]; exact mul_le_mul_of_nonneg_left hxle hw0)
  rwa [zero_value.2, hy] at hbetween

/-- `1 - w` for a weight `w` between 0 and 1 is such a weight, and at most twice the exact difference: rounding moves
the difference by no more than its distance from 0. -/
theorem fsub_one_weight {w : F32} (hw : f32IsFinite w = true) (hw0 : 0 ≤ f32Scaled w) (hw1 : f32Scaled w ≤ 2 ^ 149) :
    f32IsFinite (fsub f32One w) = true ∧ 0 ≤ f32Scaled (fsub f32One w) ∧ f32Scaled (fsub f32One w) ≤ 2 ^ 149 ∧
    f32Scaled (fsub f32One w) ≤ 2 * (2 ^ 149 - f32Scaled w) := by
  obtain ⟨hfin, hlo, hhi⟩ := fsub_between f32One w f32Zero f32One one_value.1 hw zero_value.1 one_value.1
    (by rw [zero_value.2, one_value.2]; omega) (by omega)
  rw [zero_value.2] at hlo
  rw [one_value.2] at hhi
  refine ⟨hfin, hlo, hhi, ?_⟩
  have hov : BelowOverflow (f32Scaled f32One - f32Scaled w) 1 := by
    rw [one_value.2, BelowOverflow, abs_of_nonneg (by omega)]; norm_num; omega
  obtain ⟨-, hall⟩ := fsub_nearestEven one_value.1 hw hov
  obtain ⟨hnear, -⟩ := hall f32Zero zero_value.1
  rw [one_value.2, zero_value.2, zero_mul, zero_sub, abs_neg,
    abs_of_nonneg (a := 2 ^ 149 - f32Scaled w) (by omega)] at hnear
  have := le_abs_self (f32Scaled (fsub f32One w) * 1 - (2 ^ 149 - f32Scaled w))
  omega

/-- The filter keeps an estimate up to `2^65` there when the raw speed is at most `2^64`: with the weights `a` and at
most `2 * (1 - a)` the exact sum is at most `a * 2^65 + 2 * (1 - a) * 2^64 = 2^65` (R128, R130). -/
theorem filterSpeed_finiteUpTo {cfg : Cfg} {frps raw : F32} (ha : f32IsFinite cfg.alpha = true)
    (ha0 : 0 ≤ f32Scaled cfg.alpha) (ha1 : f32Scaled cfg.alpha ≤ 2 ^ 149)
    (hfrps : FiniteUpTo (2 ^ 65 * f32Unit) frps) (hraw : FiniteUpTo (2 ^ 64 * f32Unit) raw) :
    FiniteUpTo (2 ^ 65 * f32Unit) (filterSpeed cfg frps raw) := by
  unfold filterSpeed
  obtain ⟨hold, hold0, holdle⟩ := fmul_weight_le (j := 65) (by norm_num) ha ha0 ha1 hfrps
  obtain ⟨hw, hw0, hw1, hw2⟩ := fsub_one_weight ha ha0 ha1
  obtain ⟨hnew, hnew0, hnewle⟩ := fmul_weight_le (j := 64) (by norm_num) hw hw0 hw1 hraw
  obtain ⟨top, htopfin, htop⟩ := exists_finite_of_significand (n := 1) (s := 65 + 149) (by norm_num) (by norm_num)
  obtain ⟨hfin, hlo, hhi⟩ := fadd_between _ _ f32Zero top hold hnew zero_value.1 htopfin
    (by rw [zero_value.2]; exact add_nonneg hold0 hnew0) (by rw [htop]; push_cast; omega)
  rw [zero_value.2] at hlo
  rw [htop] at hhi
  exact finiteUpTo_iff.2 ⟨hfin, hlo, by push_cast at hhi; omega⟩

/-- The raw speed of an interval of 1 to `2^32` ticks is finite and not negative for ordinary speeds (R126). -/
theorem rawSpeed_finite {cfg : Cfg} {t : F32} (hcfg : cfg.speedsOrdinary) (ht : f32IsFinite t = true)
    (ht1 : 2 ^ 149 ≤ f32Scaled t) (htle : f32Scaled t ≤ 2 ^ 32 * 2 ^ 149) :
    f32IsFinite (rawSpeed cfg t) = true ∧ 0 ≤ f32Scaled (rawSpeed cfg t) := by
  obtain ⟨hclk, -, hppr1, hpprle⟩ := hcfg
  rw [Nat.cast_mul, unit_eq] at hclk hpprle
  push_cast at hclk hppr1 hpprle
  obtain ⟨hclkfin, hclk0⟩ := posF32_bits cfg.fClk
  obtain ⟨hpprfin, -⟩ := posF32_bits cfg.ppr
  obtain ⟨lo, hlofin, hlo⟩ := exists_finite_of_significand (n := 1) (s := 117) (by norm_num) (by norm_num)
  obtain ⟨hi, hhifin, hhi⟩ := exists_finite_of_significand (n := 1) (s := 96 + 149) (by norm_num) (by norm_num)
  have hprodlo : (2 ^ 117 * 2 ^ 149 : Int) ≤ f32Scaled t * f32Scaled cfg.ppr.bits := by
    rw [mul_comm]; exact mul_le_mul ht1 hppr1 (by norm_num) (by omega)
  have hprodhi : f32Scaled t * f32Scaled cfg.ppr.bits ≤ (2 ^ 32 * 2 ^ 149) * (2 ^ 64 * 2 ^ 149) :=
    mul_le_mul htle hpprle (by omega) (by norm_num)
  obtain ⟨hden, hdenlo, -⟩ := fmul_between t cfg.ppr.bits lo hi ht hpprfin hlofin hhifin
    (by rw [hlo, unit_eq]; push_cast; omega) (by rw [hhi, unit_eq]; push_cast; omega)
  rw [hlo] at hdenlo
  push_cast at hdenlo
  have hquot : (2 ^ (96 + 149) : Int) * 2 ^ 117 ≤ 2 ^ (96 + 149) * f32Scaled (fmul t cfg.ppr.bits) :=
    mul_le_mul_of_nonneg_left (by omega) (by norm_num)
  obtain ⟨hfin, hraw, -⟩ := fdiv_between cfg.fClk.bits (fmul t cfg.ppr.bits) f32Zero hi hclkfin hden (by omega)
    zero_value.1 hhifin (by rw [zero_value.2, zero_mul, unit_eq]; omega)
    (by rw [hhi, unit_eq]; push_cast; omega)
  rw [zero_value.2] at hraw
  exact ⟨hfin, hraw⟩

/-- A tick count converts to 0, or to a number between 1 and `2^32`. -/
theorem u32ToF32_bounds (n : BitVec 32) :
    f32IsFinite (u32ToF32 n) = true ∧ f32Scaled (u32ToF32 n) ≤ 2 ^ 32 * 2 ^ 149 ∧
    (0 < f32Scaled (u32ToF32 n) → 2 ^ 149 ≤ f32Scaled (u32ToF32 n)) := by
  have hn := n.isLt
  obtain ⟨top, htopfin, htop⟩ := exists_finite_of_significand (n := 1) (s := 32 + 149) (by norm_num) (by norm_num)
  have hle : ((n.toNat * f32Unit : Nat) : Int) ≤ f32Scaled top := by
    rw [htop, Nat.cast_mul, unit_eq]; push_cast; omega
  have hnonneg : f32Scaled f32Zero ≤ n.toNat * f32Unit := by rw [zero_value.2]; exact_mod_cast Nat.zero_le _
  obtain ⟨hfin, -, hhi⟩ := u32ToF32_between n f32Zero top htopfin hnonneg hle
  rw [htop] at hhi
  refine ⟨hfin, by push_cast at hhi; omega, fun hpos => ?_⟩
  have hn0 : n.toNat ≠ 0 := by
    intro h0
    obtain ⟨-, -, hzero⟩ := u32ToF32_between n f32Zero f32Zero zero_value.1 hnonneg
      (by rw [h0, zero_value.2, Nat.zero_mul]; rfl)
    rw [zero_value.2] at hzero
    omega
  obtain ⟨-, hone, -⟩ := u32ToF32_between n f32One top htopfin (by rw [one_value.2, unit_eq]; omega) hle
  rwa [one_value.2] at hone

/-- The next estimate: kept on the two discard paths, else the filter of a raw speed up to `RPS_MAX`. -/
theorem nextEstimate_finiteUpTo {cfg : Cfg} (hcfg : cfg.wellFormed = true) (hspeeds : cfg.speedsOrdinary) {frps : F32}
    (hfrps : FiniteUpTo (2 ^ 65 * f32Unit) frps) (ticks : BitVec 32) :
    FiniteUpTo (2 ^ 65 * f32Unit) (nextEstimate cfg frps ticks) := by
  obtain ⟨-, -, -, ⟨halpha, ha0, ha1⟩, ⟨htmin, htmin0, -⟩, -⟩ := (configurationCheckIsRuleNine cfg).1 hcfg
  have ⟨_, hmax, _⟩ := hspeeds
  obtain ⟨ht, htle, htone⟩ := u32ToF32_bounds ticks
  unfold nextEstimate
  simp only
  split
  next => exact hfrps
  next hnear =>
    rw [flt_iff ht htmin] at hnear
    obtain ⟨hraw, hraw0⟩ := rawSpeed_finite hspeeds ht (htone (by omega)) htle
    split
    next => exact hfrps
    next hfar =>
      rw [fgt_iff hraw (posF32_bits _).1, not_lt] at hfar
      exact filterSpeed_finiteUpTo halpha ha0 ha1 hfrps ⟨hraw, hraw0, hfar.trans hmax⟩

/-- The estimator's action on one motor keeps its estimate within the bound. -/
theorem rpsUpdate_finiteUpTo {cfg : Cfg} (hcfg : cfg.wellFormed = true) (hspeeds : cfg.speedsOrdinary) {r : MotorRegs}
    (hr : FiniteUpTo (2 ^ 65 * f32Unit) r.frps) : FiniteUpTo (2 ^ 65 * f32Unit) (r.rpsUpdate cfg).frps := by
  rw [rpsUpdate_frps]
  split
  next => exact nextEstimate_finiteUpTo hcfg hspeeds hr _
  next => exact hr

/-- `+0.0` is within every bound. -/
theorem finiteUpTo_zero (bound : Nat) : FiniteUpTo bound f32Zero :=
  ⟨zero_value.1, zero_value.2.ge, by rw [zero_value.2]; positivity⟩

/-- (I-d) speaks of the estimates alone. -/
theorem estimatesFinite_of_eq {s u : State} (h0 : u.motor0.frps = s.motor0.frps)
    (h1 : u.motor1.frps = s.motor1.frps) (hs : EstimatesFinite s) : EstimatesFinite u := by
  rw [EstimatesFinite, h0, h1]
  exact hs

theorem Effect.estimatesFinite {op : Instr} {s u : State} (h : Effect op s u) (hcfg : s.cfg.wellFormed = true)
    (hspeeds : s.cfg.speedsOrdinary) (hs : EstimatesFinite s) : EstimatesFinite u := by
  obtain ⟨h0, h1⟩ := hs
  cases h with
  | estimate0 => exact ⟨rpsUpdate_finiteUpTo hcfg hspeeds h0, h1⟩
  | estimate1 => exact ⟨h0, rpsUpdate_finiteUpTo hcfg hspeeds h1⟩
  | _ => exact estimatesFinite_of_eq (by simp) (by simp) ⟨h0, h1⟩

/-- Settles O42: `RESET` sets both estimates to 0, and only the estimator writes them else. -/
theorem everyStepKeepsEstimatesFinite : Obligations.EveryStepKeepsEstimatesFinite := by
  intro s t hspeeds hs h
  obtain ⟨hcfg, -⟩ := step_next h
  exact step_establishes h ⟨finiteUpTo_zero _, finiteUpTo_zero _⟩
    (fun _ _ hu => hu.estimatesFinite hcfg hspeeds hs) (fun _ hu => hu)

/-! ### The compare values stay within `0 .. MAXC` (R43 (I-c), 43_pi_loop.md R147) -/

/-- Rounding to an integer keeps a number between 0 and `n` there. -/
theorem roundHaz_mem {x : F32} {n : Nat} (hx : f32IsFinite x = true) (h0 : 0 ≤ f32Scaled x)
    (hn : f32Scaled x ≤ n * f32Unit) : 0 ≤ roundHaz x ∧ roundHaz x ≤ n := by
  obtain ⟨hnear, -⟩ := roundHazIsNearestAwayFromZero x hx
  rw [unit_eq] at hn
  obtain ⟨hlo, hhi⟩ := abs_le.1 (show |roundHaz x * 2 ^ 149 - f32Scaled x| ≤ 2 ^ 148 by omega)
  constructor <;> omega

/-- For an output between 0 and 100 and an ordinary top value, each of the three operations of the mapping stays
between 0 and a number: 100, `100 * MAXC` and `MAXC` (43_pi_loop.md R146). -/
theorem dutyToCompare_mem {cfg : Cfg} (htop : cfg.topOrdinary) {out : F32} (hout : f32IsFinite out = true)
    (h0 : 0 ≤ f32Scaled out) (h100 : f32Scaled out ≤ 100 * 2 ^ 149) :
    0 ≤ dutyToCompare cfg out ∧ dutyToCompare cfg out ≤ cfg.maxc.toNat := by
  have hmaxc : cfg.maxc.toNat ≤ 0xFFFF := htop
  obtain ⟨hhundred, hhundredval⟩ := hundred_value
  obtain ⟨hm, hmval⟩ := conversionIsExactUpTo2Pow24 cfg.maxc (by omega)
  obtain ⟨product, hproduct, hproductval⟩ := exists_scaled_eq_nat (n := cfg.maxc.toNat * 100) (by omega)
  obtain ⟨hx, hxlo, hxhi⟩ := fsub_between f32Hundred out f32Zero f32Hundred hhundred hout zero_value.1 hhundred
    (by rw [zero_value.2]; omega) (by omega)
  rw [zero_value.2] at hxlo
  rw [hhundredval] at hxhi
  obtain ⟨hy, hylo, hyhi⟩ := fmul_between (u32ToF32 cfg.maxc) (fsub f32Hundred out) f32Zero product hm hx
    zero_value.1 hproduct
    (by rw [zero_value.2, zero_mul]; exact mul_nonneg (by omega) hxlo)
    (calc f32Scaled (u32ToF32 cfg.maxc) * f32Scaled (fsub f32Hundred out)
        ≤ f32Scaled (u32ToF32 cfg.maxc) * (100 * 2 ^ 149) := mul_le_mul_of_nonneg_left hxhi (by omega)
      _ = f32Scaled product * f32Unit := by rw [hmval, hproductval, unit_eq]; push_cast; ring)
  rw [zero_value.2] at hylo
  rw [hproductval] at hyhi
  obtain ⟨hz, hzlo, hzhi⟩ := fdiv_between _ f32Hundred f32Zero (u32ToF32 cfg.maxc) hy hhundred
    (by rw [hhundredval]; norm_num) zero_value.1 hm
    (by rw [zero_value.2, unit_eq]; omega) (by rw [hmval, hhundredval, unit_eq]; push_cast at hyhi; omega)
  rw [zero_value.2] at hzlo
  rw [hmval, ← unit_eq] at hzhi
  exact roundHaz_mem hz hzlo hzhi

/-- `-2^65` is finite. -/
theorem neg_two_pow_65_value : f32IsFinite 0xE0000000#32 = true ∧ f32Scaled 0xE0000000#32 = -(2 ^ 65 * 2 ^ 149) := by
  decide +kernel

/-- The error of a Running motor is finite: between `-2^65` and `RPS_ON`. -/
theorem runningError_finite (on : PosF32) {frps : F32} (hfrps : FiniteUpTo (2 ^ 65 * f32Unit) frps) :
    f32IsFinite (fsub on.bits frps) = true := by
  obtain ⟨hfin, h0, hle⟩ := finiteUpTo_iff.1 hfrps
  obtain ⟨hon, hon0⟩ := posF32_bits on
  obtain ⟨hlo, hloval⟩ := neg_two_pow_65_value
  exact (fsub_between on.bits frps _ on.bits hon hfin hlo hon (by rw [hloval]; omega) (by omega)).1

/-- The output of a lawful collaborator in a reachable state maps to a compare value within `0 .. MAXC`, which the
register holds. -/
theorem piUpdate_ocr_le {cfg : Cfg} (hcfg : cfg.wellFormed = true) (htop : cfg.topOrdinary) {r : MotorRegs}
    (hreach : PiReachable cfg.pi cfg r.pictl) (herr : f32IsFinite (fsub r.setpoint r.frps) = true) :
    (r.piUpdate cfg.pi cfg).ocr ≤ cfg.maxc.toNat := by
  have hlaw : cfg.pi.Lawful cfg := (Config.collaborator cfg).lawful hcfg
  obtain ⟨-, -, hout, hmin, hmax⟩ := (f32Within_iff _ _ _).1 (hlaw r.pictl cfg.tS _ hreach herr)
  obtain ⟨-, -, -, -, -, -, -, hmaxc, -, -, hmin0, -, hmax100⟩ := (configurationCheckIsRuleNine cfg).1 hcfg
  obtain ⟨hlo, hhi⟩ := dutyToCompare_mem htop hout (hmin0.trans hmin) (hmax.trans hmax100)
  have hwidth : 0 < 2 ^ cfg.ocrW := by positivity
  rw [piUpdate_ocr, compareWrite_of_mem hlo (by omega)]
  omega

/-- The control update of a Running core leaves both compare values within range. -/
theorem Effect.compareInRange {op : Instr} {s u : State} (h : Effect op s u) (hcfg : s.cfg.wellFormed = true)
    (htop : s.cfg.topOrdinary) (hset : SetpointsFollowRunning s) (hest : EstimatesFinite s)
    (hreach : CollaboratorsReachable s) (hs : CompareInRange s) : CompareInRange u := by
  cases h with
  | control _ _ hrun =>
    obtain ⟨hset0, hset1⟩ := hset
    rw [hrun, if_pos rfl] at hset0 hset1
    exact ⟨piUpdate_ocr_le hcfg htop hreach.1 (hset0 ▸ runningError_finite _ hest.1),
      piUpdate_ocr_le hcfg htop hreach.2 (hset1 ▸ runningError_finite _ hest.2)⟩
  | complete _ => exact ⟨le_rfl, le_rfl⟩
  | _ => simpa [CompareInRange] using hs

/-- Settles O43: `RESET` and `DONE` set both compare registers to `MAXC`, and the control update keeps them in range. -/
theorem everyStepKeepsComparesInRange : Obligations.EveryStepKeepsComparesInRange := by
  intro s t htop ⟨_, _, hset, _⟩ hest hreach hs h
  obtain ⟨hcfg, -⟩ := step_next h
  exact step_establishes h ⟨le_rfl, le_rfl⟩
    (fun _ _ hu => hu.compareInRange hcfg htop hset hest hreach hs) (fun _ hu => hu)

/-! ### The reset state (R44) -/

/-- The default configuration is well formed: none of the parameters left open enters the check (00_scope.md R9). -/
theorem default_wellFormed : Cfg.default.wellFormed = true := by decide +kernel

/-- Settles O40: the reset state is the one every register's reset value gives, under the default configuration. -/
theorem invariantsHoldAtReset : Obligations.InvariantsHoldAtReset :=
  ⟨⟨rfl, Nat.zero_le _, ⟨rfl, rfl⟩, rfl⟩, ⟨le_rfl, le_rfl⟩, ⟨finiteUpTo_zero _, finiteUpTo_zero _⟩,
    fun _ => ⟨rfl, rfl⟩, ⟨.init, .init⟩, by decide, by decide, default_wellFormed⟩

end Sys2Proof.Machine

end

/-!
# Proofs: memory (20_memory.md)

What a `DONE` sees of the `PARSE` of its own pass (R71). From the `PARSE` on the core waits for its `DONE`, with a
number of samples counted: that is the invariant `AwaitsDone`. `PARSE` establishes it with no sample, every event
between the two keeps it, a `SAMPLE` with one sample more (R192), and `DONE` compares the number with `DURATION`.
-/

section

namespace Sys2Proof.Machine

open Sys2Proof

/-! ### The phases `PARSE` and `DONE` in `STEP` (R190) -/

/-- `STEP` on a live core is the phase operation, then the advance of `PHASE`. -/
theorem exec_step_of_live {s : State} (hlive : s.halted = false) :
    exec .step s = (runPhase s).mapNext advancePhase := by
  show execStep s = _
  rw [execStep, whenLive_of_live hlive]

/-- The step of a `STEP` word. -/
theorem step_of_stepWord {s : State} {rest : List EventWord} (hcfg : s.cfg.wellFormed = true)
    (hport : s.port = stepWord :: rest) : step s = exec .step (beginStep s) := by
  rw [step_of_wellFormed hcfg, fetchWord_of_cons hport]
  rfl

/-- `PARSE` on a live Idle core with a byte in the slot starts the command of the byte's class (R161). -/
theorem execParse_of_pending {s : State} {b : Byte} (hlive : s.halted = false) (hidle : s.running = false)
    (hready : s.cmdReady = true) (hslot : s.pending = some b) :
    execParse s = .next (startRun (classify (commandCode s.cfg b)) s) := by
  rw [execParse, whenLive_of_live hlive, hready, hidle, hslot]
  exact (runClass_eq _ s).trans (whenIdle_of_idle hlive hidle _)

/-- The `STEP` of phase 3 on such a core. -/
theorem exec_step_parse {s : State} {b : Byte} (hlive : s.halted = false) (hidle : s.running = false)
    (hready : s.cmdReady = true) (hslot : s.pending = some b) (hphase : s.phase = 3#3) :
    exec .step s = .next (advancePhase (startRun (classify (commandCode s.cfg b)) s)) := by
  have hrun : runPhase s = execParse s := by simp [runPhase, hphase]
  rw [exec_step_of_live hlive, hrun, execParse_of_pending hlive hidle hready hslot]
  rfl

/-- The `STEP` of phase 4 on a live core. -/
theorem exec_step_done {s : State} (hlive : s.halted = false) (hphase : s.phase = 4#3) :
    exec .step s = .next (advancePhase (donePhase s.cfg.pi s)) := by
  have hrun : runPhase s = execDone s := by simp [runPhase, hphase]
  rw [exec_step_of_live hlive, hrun, execDone, whenLive_of_live hlive]
  rfl

/-! ### What `DONE` keeps and decides (R171) -/

/-- R9: with no sample counted no command's time is up. -/
theorem duration_pos {cfg : Cfg} (h : cfg.wellFormed = true) : 0 < cfg.duration.toNat := by
  obtain ⟨-, -, -, -, -, hduration, -⟩ := (configurationCheckIsRuleNine cfg).1 h
  exact hduration

/-- Before its time is up a command goes on unchanged. -/
theorem donePhase_of_lt (c : Collaborator) {s : State} (h : s.elapsed < s.cfg.duration) : donePhase c s = s := by
  rcases donePhase_cases c s with ⟨-, e⟩ | ⟨-, hle, -⟩
  · exact e
  · exact absurd h (BitVec.not_lt.2 hle)

@[simp] theorem donePhase_elapsed (c : Collaborator) (s : State) : (donePhase c s).elapsed = s.elapsed := by
  rcases donePhase_cases c s with ⟨-, e⟩ | ⟨-, -, e⟩ <;> simp [e]

@[simp] theorem donePhase_phase (c : Collaborator) (s : State) : (donePhase c s).phase = s.phase := by
  rcases donePhase_cases c s with ⟨-, e⟩ | ⟨-, -, e⟩ <;> simp [e]

@[simp] theorem donePhase_port (c : Collaborator) (s : State) : (donePhase c s).port = s.port := by
  rcases donePhase_cases c s with ⟨-, e⟩ | ⟨-, -, e⟩ <;> simp [e]

/-- A Running core runs on after `DONE` exactly when its time is not up. -/
theorem donePhase_running_iff (c : Collaborator) {s : State} (hrun : s.running = true) :
    (donePhase c s).running = true ↔ s.elapsed < s.cfg.duration := by
  rcases donePhase_cases c s with ⟨hno, e⟩ | ⟨-, hle, e⟩
  · have hlt : ¬ s.cfg.duration ≤ s.elapsed := hno.resolve_left (by simp [hrun])
    rw [e]
    exact iff_of_true hrun (BitVec.not_le.1 hlt)
  · rw [e]
    exact iff_of_false (by simp) (BitVec.not_lt.2 hle)

/-! ### Interrupt events (R69, R192) -/

/-- The operations of the event codes 0 to 5: the interrupt events, and `IDLE`, which is no event. -/
inductive InterruptOrIdle : Instr → Prop where
  | idle : InterruptOrIdle .idle
  | ovf : InterruptOrIdle .ovf
  | edge0 (hw : Half) : InterruptOrIdle (.edge0 hw)
  | edge1 (hw : Half) : InterruptOrIdle (.edge1 hw)
  | sample : InterruptOrIdle .sample
  | rx (b : Byte) : InterruptOrIdle (.rx b)

/-- R82: of the words of these codes exactly those of code 4 are a `SAMPLE`. -/
theorem interruptOrIdle_decodeEvent {ev : EventWord} (h : ev.op.toNat ≤ 5) :
    InterruptOrIdle (decodeEvent ev) ∧ (decodeEvent ev = .sample ↔ ev.op = 0x4#4) := by
  have hcodes : ∀ op : BitVec 4, op.toNat ≤ 5 →
      op = 0x0#4 ∨ op = 0x1#4 ∨ op = 0x2#4 ∨ op = 0x3#4 ∨ op = 0x4#4 ∨ op = 0x5#4 := by decide
  rcases hcodes ev.op h with e | e | e | e | e | e <;> simp only [decodeEvent, e]
  · exact ⟨.idle, by decide⟩
  · exact ⟨.ovf, by decide⟩
  · exact ⟨.edge0 _, by simp⟩
  · exact ⟨.edge1 _, by simp⟩
  · exact ⟨.sample, by decide⟩
  · exact ⟨.rx _, by simp⟩

/-- None of them starts or ends a command. -/
theorem InterruptOrIdle.keeps_command {i : Instr} (h : InterruptOrIdle i) :
    i.startsCommand = false ∧ i ≠ .done := by
  cases h <;> exact ⟨rfl, nofun⟩

/-- None of them halts the core. -/
theorem InterruptOrIdle.not_reserved {i : Instr} (h : InterruptOrIdle i) :
    i ∉ [Instr.reserved7, .reserved8, .reserved9, .reservedA, .reservedB, .reservedC, .reservedD, .reservedE] := by
  cases h <;> simp

/-- On a live core each of them completes, with its own effect. -/
theorem InterruptOrIdle.completes {i : Instr} (h : InterruptOrIdle i) {s : State} (hlive : s.halted = false) :
    ∃ u, exec i s = .next u ∧ Effect i s u := by
  have hne : i ≠ .step ∧ i ≠ .parse ∧ i ≠ .reset := by cases h <;> exact ⟨nofun, nofun, nofun⟩
  obtain ⟨hstep, hparse, hreset⟩ := hne
  obtain ⟨u, hu⟩ := exec_completes hstep hparse s
  exact ⟨u, hu, effect_of_exec hlive hu hstep hreset⟩

/-! ### Between `PARSE` and `DONE` -/

/-- A live Running core at `DONE` under the configuration `cfg`, with `n` samples counted. -/
structure AwaitsDone (cfg : Cfg) (n : Nat) (s : State) : Prop where
  cfg_eq : s.cfg = cfg
  live : s.halted = false
  running : s.running = true
  phase_eq : s.phase = 4#3
  elapsed_eq : s.elapsed = BitVec.ofNat 32 n

section

variable {cfg : Cfg} {n : Nat} {s : State}

/-- R161: a command starts with no sample counted. -/
theorem awaitsDone_of_parse (cls : CommandClass) (hlive : s.halted = false) (hphase : s.phase = 3#3) :
    AwaitsDone s.cfg 0 (advancePhase (startRun cls s)) where
  cfg_eq := by simp
  live := by simp [hlive]
  running := by simp
  phase_eq := by simp [hphase]
  elapsed_eq := by simp

theorem AwaitsDone.at_beginStep (h : AwaitsDone cfg n s) : AwaitsDone cfg n (beginStep s) where
  cfg_eq := h.cfg_eq
  live := h.live
  running := h.running
  phase_eq := h.phase_eq
  elapsed_eq := h.elapsed_eq

/-- By R42 no interrupt event writes what `AwaitsDone` reads, but for the sample counter. -/
theorem AwaitsDone.of_effect {op : Instr} {u : State} {m : Nat} (h : AwaitsDone cfg n s)
    (hop : InterruptOrIdle op) (heffect : Effect op s u) (helapsed : u.elapsed = BitVec.ofNat 32 m) :
    AwaitsDone cfg m u := by
  obtain ⟨hstart, hdone⟩ := hop.keeps_command
  have hhalted : u.halted = s.halted := by
    by_contra hne
    exact hop.not_reserved (heffect.halt_writer (.inl hne))
  have hrunning : u.running = s.running := by
    by_contra hne
    rcases heffect.running_writer hne with ⟨hs, -⟩ | ⟨hd, -⟩
    · exact absurd hs (by simp [hstart])
    · exact hdone hd
  exact ⟨heffect.cfg_eq.trans h.cfg_eq, hhalted.trans h.live, hrunning.trans h.running,
    heffect.phase_eq.trans h.phase_eq, helapsed⟩

/-- R26, R140: of the interrupt events exactly `SAMPLE` counts. -/
theorem AwaitsDone.elapsed_of_exec {op : Instr} {u : State} (h : AwaitsDone cfg n s) (hop : InterruptOrIdle op)
    (hexec : exec op s = .next u) (heffect : Effect op s u) :
    u.elapsed = BitVec.ofNat 32 (n + if op = .sample then 1 else 0) := by
  by_cases hsample : op = .sample
  · subst hsample
    rcases execSample_next hexec with ⟨hhalted, -⟩ | ⟨-, rfl⟩
    · exact absurd hhalted (by simp [h.live])
    · simp [h.running, h.elapsed_eq, BitVec.ofNat_add]
  · rw [if_neg hsample, Nat.add_zero, ← h.elapsed_eq]
    by_contra hne
    rcases heffect.elapsed_writer hne with ⟨hs, -⟩ | ⟨hs, -⟩
    · exact hsample hs
    · exact absurd hs (by simp [hop.keeps_command.1])

/-- The step of an interrupt event between `PARSE` and `DONE`. -/
theorem AwaitsDone.step_event {ev : EventWord} {rest : List EventWord} (h : AwaitsDone cfg n s)
    (hcfg : cfg.wellFormed = true) (hport : s.port = ev :: rest) (hev : ev.op.toNat ≤ 5) :
    ∃ u, step s = .next u ∧ AwaitsDone cfg (n + if ev.op == 0x4#4 then 1 else 0) u ∧ u.port = rest := by
  obtain ⟨hop, hsample⟩ := interruptOrIdle_decodeEvent hev
  have hstep : step s = exec (decodeEvent ev) (beginStep s) := by
    rw [step_of_wellFormed (h.cfg_eq ▸ hcfg), fetchWord_of_cons hport]
  obtain ⟨u, hu, heffect⟩ := hop.completes h.at_beginStep.live
  have helapsed := h.at_beginStep.elapsed_of_exec hop hu heffect
  simp only [hsample] at helapsed
  refine ⟨u, hstep.trans hu, ?_, by rw [heffect.port_eq, beginStep_port, hport, List.tail_cons]⟩
  simpa using h.at_beginStep.of_effect hop heffect helapsed

/-- A run over interrupt events counts the `SAMPLE` events among them. -/
theorem AwaitsDone.run_events {events rest : List EventWord} (h : AwaitsDone cfg n s) (hcfg : cfg.wellFormed = true)
    (hevents : ∀ ev ∈ events, ev.op.toNat ≤ 5) (hport : s.port = events ++ rest) :
    ∃ u : State, Host.Core.run Sys2Proof.core events.length s = .next u ∧
      AwaitsDone cfg (n + events.countP fun ev => ev.op == 0x4#4) u ∧ u.port = rest := by
  induction events generalizing s n with
  | nil => exact ⟨s, rfl, h, hport⟩
  | cons ev events ih =>
    obtain ⟨hev, hevents⟩ := List.forall_mem_cons.1 hevents
    obtain ⟨u, hstep, hu, huport⟩ := h.step_event hcfg hport hev
    obtain ⟨v, hrun, hv, hvport⟩ := ih hu hevents huport
    refine ⟨v, (run_succ hstep _).trans hrun, ?_, hvport⟩
    rwa [List.countP_cons, Nat.add_comm (List.countP _ _), ← Nat.add_assoc]

/-- The step of the `DONE` (R171): the command runs on exactly if the samples counted are fewer than `DURATION`. -/
theorem AwaitsDone.step_done {rest : List EventWord} (h : AwaitsDone cfg n s) (hcfg : cfg.wellFormed = true)
    (hport : s.port = stepWord :: rest) (hn : n < 2 ^ 32) :
    ∃ t, step s = .next t ∧ t.port = rest ∧ t.phase = 0#3 ∧ t.elapsed.toNat = n ∧
      (t.running = true ↔ n < cfg.duration.toNat) := by
  have hstep := (step_of_stepWord (h.cfg_eq ▸ hcfg) hport).trans
    (exec_step_done h.at_beginStep.live h.at_beginStep.phase_eq)
  have helapsed : s.elapsed.toNat = n := by
    rw [h.elapsed_eq, BitVec.toNat_ofNat, Nat.mod_eq_of_lt hn]
  refine ⟨_, hstep, by simp [hport], by simp [h.phase_eq], by simpa using helapsed, ?_⟩
  rw [advancePhase_running, donePhase_running_iff _ h.at_beginStep.running, BitVec.lt_def, beginStep_elapsed,
    helapsed, h.at_beginStep.cfg_eq]

end

/-! ### R71 and its case of samples in between -/

/-- Settles O34: `PARSE` leaves `ELAPSED` 0, below `DURATION`, so that `DONE` changes nothing. -/
theorem parsedCommandOutlivesItsPass : Obligations.ParsedCommandOutlivesItsPass := by
  intro s b hcfg hlive hidle hready hslot hphase
  have hu := awaitsDone_of_parse (classify (commandCode s.cfg b)) hlive hphase
  refine ⟨_, _, exec_step_parse hlive hidle hready hslot hphase, exec_step_done hu.live hu.phase_eq, ?_⟩
  rw [donePhase_of_lt _ (by rw [hu.elapsed_eq, hu.cfg_eq]; exact duration_pos hcfg)]
  exact ⟨hu.running, hu.elapsed_eq, by simp [hphase], by simp⟩

/-- Settles O59: the run is `PARSE`, the events, each of which keeps `AwaitsDone`, and `DONE`. -/
theorem samplesBetweenParseAndDoneAreCounted : Obligations.SamplesBetweenParseAndDoneAreCounted := by
  intro s b events rest hcfg hlive hidle hready hslot hphase hevents hport samples hbound
  have hparse := (step_of_stepWord hcfg hport).trans
    (exec_step_parse (s := beginStep s) hlive hidle hready hslot hphase)
  have hu := awaitsDone_of_parse (s := beginStep s) (classify (commandCode s.cfg b)) hlive hphase
  obtain ⟨v, hrun, hv, hvport⟩ := hu.run_events (rest := stepWord :: rest) hcfg hevents (by simp [hport])
  rw [Nat.zero_add] at hv
  obtain ⟨t, hdone, htport, htphase, helapsed, hrunning⟩ := hv.step_done hcfg hvport hbound
  refine ⟨t, ?_, htport, htphase, helapsed, hrunning, fun h0 => ⟨?_, ?_⟩⟩
  · exact (run_succ hparse _).trans ((run_add _ 1 hrun).trans (run_succ hdone 0))
  · exact hrunning.2 (h0.trans_lt (duration_pos hcfg))
  · exact BitVec.eq_of_toNat_eq (helapsed.trans h0)

end Sys2Proof.Machine

end

/-!
# Proofs: encoding (30_encoding.md)

What an operation is read from. The round trip of the decoder is one lemma per operation
(`Laws.RoundTrip`); what else is claimed of the decoder follows from the part of a word each format reads: the code
and the operand its operation uses of an event word (R82), the low seven bits of a command byte (R85).
-/

section

namespace Sys2Proof

/-! ### The round trip (R82, R84, R86) -/

/-- Settles O24, operation by operation. -/
theorem decodeReadsEncodedOperations : Obligations.DecodeReadsEncodedOperations := by
  intro i
  show Laws.RoundTrip.Statement i
  cases i with
  | idle => exact Laws.RoundTrip.idle
  | ovf => exact Laws.RoundTrip.ovf
  | edge0 hw => exact Laws.RoundTrip.edge0 hw
  | edge1 hw => exact Laws.RoundTrip.edge1 hw
  | sample => exact Laws.RoundTrip.sample
  | rx byte => exact Laws.RoundTrip.rx byte
  | step => exact Laws.RoundTrip.step
  | rps0 => exact Laws.RoundTrip.rps0
  | rps1 => exact Laws.RoundTrip.rps1
  | pi => exact Laws.RoundTrip.pi
  | parse => exact Laws.RoundTrip.parse
  | done => exact Laws.RoundTrip.done
  | reserved7 => exact Laws.RoundTrip.reserved7
  | reserved8 => exact Laws.RoundTrip.reserved8
  | reserved9 => exact Laws.RoundTrip.reserved9
  | reservedA => exact Laws.RoundTrip.reservedA
  | reservedB => exact Laws.RoundTrip.reservedB
  | reservedC => exact Laws.RoundTrip.reservedC
  | reservedD => exact Laws.RoundTrip.reservedD
  | reservedE => exact Laws.RoundTrip.reservedE
  | reset => exact Laws.RoundTrip.reset
  | forward => exact Laws.RoundTrip.forward
  | backward => exact Laws.RoundTrip.backward
  | left => exact Laws.RoundTrip.left
  | right => exact Laws.RoundTrip.right
  | stop => exact Laws.RoundTrip.stop
  | unknown code => exact Laws.RoundTrip.unknown code

/-! ### The operand bits an event word's operation reads (R82) -/

/-- `RX` reads the low byte of its word. -/
theorem decodeEvent_of_op_rx {ev : EventWord} (h : ev.op = 0x5#4) :
    decodeEvent ev = .rx (BitVec.ofNat 8 (ev.toNat % 2 ^ 8)) := by
  have hbyte : ev.data.setWidth 8 = BitVec.ofNat 8 (ev.toNat % 2 ^ 8) := by
    apply BitVec.eq_of_toNat_eq
    simp [EventWord.data]
  simp only [decodeEvent, h, hbyte]

/-- A word of a code whose operation has no operand is read as the word of that code with the operand 0. -/
theorem decodeEvent_of_no_operand {ev : EventWord} (hedge0 : ev.op ≠ 0x2#4) (hedge1 : ev.op ≠ 0x3#4)
    (hrx : ev.op ≠ 0x5#4) : decodeEvent ev = decodeEvent (EventWord.make ev.op 0#16) := by
  unfold decodeEvent
  rw [make_op]
  split
  case h_3 h => exact absurd h hedge0
  case h_4 h => exact absurd h hedge1
  case h_6 h => exact absurd h hrx
  all_goals rfl

/-- Settles O25: an `RX` word is read by its low byte, and a word without an operand by its code alone. -/
theorem ignoredOperandBitsChangeNothing : Obligations.IgnoredOperandBitsChangeNothing := by
  intro ev ev' hop hedge0 hedge1 hbyte
  by_cases hrx : ev.op = 0x5#4
  · rw [decodeEvent_of_op_rx hrx, decodeEvent_of_op_rx (hop ▸ hrx), hbyte hrx]
  · rw [decodeEvent_of_no_operand hedge0 hedge1 hrx,
      decodeEvent_of_no_operand (ev := ev') (hop ▸ hedge0) (hop ▸ hedge1) (hop ▸ hrx), hop]

/-! ### Words written out (95_test_vectors.md section 3.1) -/

/-- Settles O26, by evaluating the decoder on each word. -/
theorem writtenWordsDecode : Obligations.WrittenWordsDecode :=
  ⟨rfl, rfl, rfl, rfl, rfl, rfl, rfl, rfl, rfl, rfl, rfl, rfl⟩

/-! ### Command bytes (R85, R86) -/

/-- The mask `0x7F` keeps the seven bits of the command code. -/
theorem and_mask_eq_code (b : Byte) : b &&& 0x7F#8 = ((b.setWidth 7 : Code)).setWidth 8 := by
  apply BitVec.eq_of_toNat_eq
  have hmask : b.toNat &&& 127 = b.toNat % 128 := Nat.and_two_pow_sub_one_eq_mod b.toNat 7
  have hbound : b.toNat % 128 < 256 := by omega
  simp [hmask, Nat.mod_eq_of_lt hbound]

/-- A byte under the mask is a code of the table exactly when its low seven bits are that code. -/
theorem and_mask_eq_iff (b : Byte) (code : Code) : b &&& 0x7F#8 = code.setWidth 8 ↔ b.setWidth 7 = code := by
  rw [and_mask_eq_code]
  exact ⟨fun h => by simpa using congrArg (BitVec.setWidth 7) h, fun h => by rw [h]⟩

/-- Settles O27: each comparison of `classify` is the comparison of the masked byte with the same code. -/
theorem commandBytesFallInOneClass : Obligations.CommandBytesFallInOneClass := by
  intro b
  simp only [decodeCommand, classify, ← and_mask_eq_iff, BitVec.reduceSetWidth]
  split_ifs <;> rfl

end Sys2Proof

end

/-!
# Proofs: tick extender (40_tick_extender.md)

`OVF` moves the tick position of every counter value by `2^16` (R102), which is the carry out of the 16 bits of the
reference timer. So the tick position of a core and the reference timer advances by one with every tick (R104): that
is one field of the invariant `KeepsTime`, which also carries what the last pulse latched. Two pulses latch two tick
positions, and their difference is the number of ticks between them (R105).
-/

section

namespace Sys2Proof.Machine

open Sys2Proof

/-! ### `OVF` (R100) -/

theorem decodeEvent_make_ovf (d : Half) : decodeEvent (EventWord.make 0x1#4 d) = .ovf := by
  simp [decodeEvent]

theorem exec_ovf_of_live {s : State} (hlive : s.halted = false) : exec .ovf s = .next (bumpRoll s) := by
  rw [exec, execOvf, whenLive_of_live hlive]

theorem exec_ovf_of_halted {s : State} (hhalted : s.halted = true) : exec .ovf s = .next s := by
  rw [exec, execOvf, whenLive_of_halted hhalted]

/-- Settles O2: the sum of 16-bit words is the sum of their numbers modulo `2^16`. -/
theorem ovfIncrementsRollover : Obligations.OvfIncrementsRollover := by
  refine ⟨decodeEvent_make_ovf, fun s hlive => ?_, fun s => exec_ovf_of_halted⟩
  have hroll : s.roll + 1#16 = BitVec.ofNat 16 ((s.roll.toNat + 1) % 2 ^ 16) :=
    BitVec.eq_of_toNat_eq (by simp)
  rw [exec_ovf_of_live hlive, bumpRoll, hroll]

/-! ### Tick positions (R101, R102) -/

/-- R102: a rollover more is `2^16` more, modulo `2^32`. -/
theorem tickpos_succ_roll (roll hw : Half) : tickpos (roll + 1#16) hw = tickpos roll hw + BitVec.ofNat 32 (2 ^ 16) := by
  apply BitVec.eq_of_toNat_eq
  simp only [BitVec.toNat_add, tickpos_toNat, BitVec.toNat_ofNat]
  omega

/-- Along a sequence of `OVF` from a live core the tick position has moved by `2^16` for each. -/
theorem tickpos_of_ovf_sequence {f : Nat → State} (hlive : (f 0).halted = false)
    (hf : ∀ n, exec .ovf (f n) = .next (f (n + 1))) (hw : Half) (n : Nat) :
    (f n).halted = false ∧ tickpos (f n).roll hw = tickpos (f 0).roll hw + BitVec.ofNat 32 (n * 2 ^ 16) := by
  induction n with
  | zero => exact ⟨hlive, by simp⟩
  | succ n ih =>
    obtain ⟨hn, hpos⟩ := ih
    have hnext : f (n + 1) = bumpRoll (f n) := by
      have h := (hf n).symm.trans (exec_ovf_of_live hn)
      injection h
    rw [hnext, bumpRoll_halted, bumpRoll_roll, tickpos_succ_roll, hpos, BitVec.add_assoc, ← BitVec.ofNat_add,
      Nat.succ_mul]
    exact ⟨hn, rfl⟩

/-- Settles O53: the three laws are those of `tickpos` read as numbers, and `2^16 * 2^16` is 0 modulo `2^32`. -/
theorem tickPositionCountsOverflows : Obligations.TickPositionCountsOverflows := by
  refine ⟨tickpos_toNat, fun s hw hlive => ⟨bumpRoll s, exec_ovf_of_live hlive, ?_⟩, fun f hw hlive hf => ?_⟩
  · rw [bumpRoll_roll, tickpos_succ_roll, BitVec.toNat_add]
    rfl
  · have hpos := fun n => (tickpos_of_ovf_sequence hlive hf hw n).2
    refine ⟨fun n => ?_, ?_⟩
    · rw [hpos n, BitVec.toNat_add, BitVec.toNat_ofNat, Nat.add_mod_mod]
    · have hwrap : BitVec.ofNat 32 (2 ^ 16 * 2 ^ 16) = 0#32 := rfl
      rw [hpos, hwrap, BitVec.add_zero]

/-- R104: a tick that does not wrap the timer adds one to the tick position. -/
theorem tickpos_tickTimer_of_not_wrap {t : Half} (roll : Half) (h : t + 1#16 ≠ 0#16) :
    tickpos roll (tickTimer t) = tickpos roll t + 1#32 := by
  have hlt : t.toNat + 1 < 2 ^ 16 := by
    by_contra hge
    exact h (BitVec.eq_of_toNat_eq (by simp; omega))
  apply BitVec.eq_of_toNat_eq
  simp only [tickTimer, BitVec.toNat_add, tickpos_toNat, BitVec.toNat_ofNat]
  omega

/-- R104: a tick that wraps the timer does so together with its `OVF`. -/
theorem tickpos_tickTimer_of_wrap {t : Half} (roll : Half) (h : t + 1#16 = 0#16) :
    tickpos (roll + 1#16) (tickTimer t) = tickpos roll t + 1#32 := by
  have ht : t = 0xFFFF#16 := eq_neg_of_add_eq_zero_left h
  rw [tickpos_succ_roll, tickTimer, h, ht]
  apply BitVec.eq_of_toNat_eq
  simp only [BitVec.toNat_add, tickpos_toNat, BitVec.toNat_ofNat]
  omega

/-! ### Pulses (R110) -/

/-- The word of a pulse on a live core is the capture of its motor. -/
theorem exec_pulseEvent {s : State} (hlive : s.halted = false) (m : MotorId) (t : Half) :
    exec (decodeEvent (pulseEvent m t)) s = .next (capture m t s) := by
  cases m with
  | m0 =>
    have hdecode : decodeEvent (pulseEvent .m0 t) = .edge0 t := by simp [pulseEvent, edgeWord, decodeEvent]
    rw [hdecode, exec, execEdge0, whenLive_of_live hlive]
  | m1 =>
    have hdecode : decodeEvent (pulseEvent .m1 t) = .edge1 t := by simp [pulseEvent, edgeWord, decodeEvent]
    rw [hdecode, exec, execEdge1, whenLive_of_live hlive]

/-! ### A core and the reference timer (R104) -/

/-- A live core under the configuration `cfg` which, with the reference timer at `t`, is at the tick position `pos`,
and whose motor `m` latched `raw` last. -/
structure KeepsTime (cfg : Cfg) (m : MotorId) (raw : Tick) (pos : Tick) (t : Half) (s : State) : Prop where
  cfg_eq : s.cfg = cfg
  live : s.halted = false
  raw_eq : (s.motor m).rawTick = raw
  pos_eq : tickpos s.roll t = pos

section

variable {cfg : Cfg} {m : MotorId} {raw pos : Tick} {t : Half} {s : State} {rest : List EventWord}

theorem KeepsTime.at_beginStep (h : KeepsTime cfg m raw pos t s) : KeepsTime cfg m raw pos t (beginStep s) := by
  obtain ⟨hcfg, hlive, hraw, hpos⟩ := h
  exact ⟨hcfg, hlive, by cases m <;> exact hraw, hpos⟩

/-- A wrap of the timer: `OVF` carries into the tick position. -/
theorem KeepsTime.bumpRoll_of_wrap (h : KeepsTime cfg m raw pos t s) (hwrap : t + 1#16 = 0#16) :
    KeepsTime cfg m raw (pos + 1#32) (tickTimer t) (bumpRoll s) := by
  obtain ⟨hcfg, hlive, hraw, hpos⟩ := h
  exact ⟨hcfg, hlive, by cases m <;> exact hraw, by rw [bumpRoll_roll, tickpos_tickTimer_of_wrap _ hwrap, hpos]⟩

/-- R110: a pulse latches the tick position and keeps the one latched before it. -/
theorem KeepsTime.after_capture (h : KeepsTime cfg m raw pos t s) :
    KeepsTime cfg m pos pos t (capture m t s) ∧ ((capture m t s).motor m).bufTick = raw ∧
      (capture m t s).port = s.port := by
  obtain ⟨hcfg, hlive, hraw, hpos⟩ := h
  cases m <;> exact ⟨⟨hcfg, hlive, hpos, hpos⟩, hraw, rfl⟩

/-- The step of a pulse. -/
theorem KeepsTime.step_pulse (h : KeepsTime cfg m raw pos t s) (hcfg : cfg.wellFormed = true)
    (hport : s.port = pulseEvent m t :: rest) :
    ∃ u, step s = .next u ∧ KeepsTime cfg m pos pos t u ∧ (u.motor m).bufTick = raw ∧ u.port = rest := by
  obtain ⟨htime, hbuf, huport⟩ := h.at_beginStep.after_capture
  refine ⟨_, ?_, htime, hbuf, by rw [huport, beginStep_port, hport, List.tail_cons]⟩
  rw [step_of_wellFormed (h.cfg_eq ▸ hcfg), fetchWord_of_cons hport, exec_pulseEvent h.at_beginStep.live]

/-- A tick moves the tick position by one, in one step if the timer wraps and else in none. -/
theorem KeepsTime.run_tick (h : KeepsTime cfg m raw pos t s) (hcfg : cfg.wellFormed = true)
    (hport : s.port = tickEvents t ++ rest) :
    ∃ u : State, Host.Core.run Sys2Proof.core (tickEvents t).length s = .next u ∧
      KeepsTime cfg m raw (pos + 1#32) (tickTimer t) u ∧ u.port = rest := by
  by_cases hwrap : t + 1#16 = 0#16
  · rw [tickEvents, if_pos hwrap] at hport ⊢
    have hstep : step s = .next (bumpRoll (beginStep s)) := by
      rw [step_of_wellFormed (h.cfg_eq ▸ hcfg), fetchWord_of_cons hport, ovfWord, decodeEvent_make_ovf,
        exec_ovf_of_live h.at_beginStep.live]
    exact ⟨_, run_succ hstep 0, h.at_beginStep.bumpRoll_of_wrap hwrap, by simp [hport]⟩
  · rw [tickEvents, if_neg hwrap] at hport ⊢
    have hpos : tickpos s.roll (tickTimer t) = pos + 1#32 := by
      rw [tickpos_tickTimer_of_not_wrap _ hwrap, h.pos_eq]
    exact ⟨s, rfl, ⟨h.cfg_eq, h.live, h.raw_eq, hpos⟩, hport⟩

/-- `n` ticks move the tick position by `n`. -/
theorem KeepsTime.run_adv {n : Nat} (h : KeepsTime cfg m raw pos t s) (hcfg : cfg.wellFormed = true)
    (hport : s.port = advEvents n t ++ rest) :
    ∃ u : State, Host.Core.run Sys2Proof.core (advEvents n t).length s = .next u ∧
      KeepsTime cfg m raw (pos + BitVec.ofNat 32 n) (advTimer n t) u ∧ u.port = rest := by
  induction n generalizing s pos t with
  | zero => exact ⟨s, rfl, by simpa [advTimer] using h, hport⟩
  | succ n ih =>
    rw [advEvents, List.append_assoc] at hport
    obtain ⟨u, htick, hu, huport⟩ := h.run_tick hcfg hport
    obtain ⟨v, hrun, hv, hvport⟩ := ih hu huport
    refine ⟨v, ?_, ?_, hvport⟩
    · rw [advEvents, List.length_append, run_add _ _ htick, hrun]
    · rwa [advTimer, Nat.add_comm n 1, BitVec.ofNat_add, ← BitVec.add_assoc]

end

/-- Settles O55: the first pulse latches a tick position, the ticks move it by `n`, and the second pulse latches it
again, with the first one kept in `BUF_TICK`. -/
theorem tickExtensionMeasuresElapsedTicks : Obligations.TickExtensionMeasuresElapsedTicks := by
  intro s m n t rest hcfg hlive hport
  have hs : KeepsTime s.cfg m (s.motor m).rawTick (tickpos s.roll t) t s := ⟨rfl, hlive, rfl, rfl⟩
  obtain ⟨u, hfirst, hu, -, huport⟩ := hs.step_pulse hcfg hport
  obtain ⟨v, hadv, hv, hvport⟩ := hu.run_adv hcfg huport
  obtain ⟨w, hsecond, hw, hbuf, hwport⟩ := hv.step_pulse hcfg hvport
  have hdiff : ((w.motor m).rawTick - (w.motor m).bufTick).toNat = n % 2 ^ 32 := by
    rw [hw.raw_eq, hbuf, add_sub_cancel_left, BitVec.toNat_ofNat]
  refine ⟨w, ?_, hwport, hdiff, fun hlt => ?_⟩
  · calc Host.Core.run Sys2Proof.core ((advEvents n t).length + 2) s
      _ = Host.Core.run Sys2Proof.core ((advEvents n t).length + 1) u := run_succ hfirst _
      _ = Host.Core.run Sys2Proof.core 1 v := run_add _ 1 hadv
      _ = .next w := run_succ hsecond 0
  · rw [← hdiff, BitVec.toNat_sub_of_lt hlt]
    omega

end Sys2Proof.Machine

end

/-!
# Proofs: encoder capture (41_encoder_capture.md)

`EDGE<m>` runs `capture m` on a live core (R111, R112), and the tick position it latches is the concatenation of
`ROLL` and the counter value, which R110 writes as a shift and an or. A capture shifts the latch pair of its own motor
and reads `ROLL` without writing it, so a second capture finds in `RAW_TICK` the tick position the first one latched
(R113).
-/

section

namespace Sys2Proof.Machine

open Sys2Proof

/-! ### `EDGE0` and `EDGE1` (R111, R112) -/

theorem decodeEvent_make_edge0 (hw : Half) : decodeEvent (EventWord.make 0x2#4 hw) = .edge0 hw := by
  simp [decodeEvent]

theorem decodeEvent_make_edge1 (hw : Half) : decodeEvent (EventWord.make 0x3#4 hw) = .edge1 hw := by
  simp [decodeEvent]

theorem exec_edge0_of_live {s : State} (hlive : s.halted = false) (hw : Half) :
    exec (.edge0 hw) s = .next (capture .m0 hw s) := by
  rw [exec, execEdge0, whenLive_of_live hlive]

theorem exec_edge1_of_live {s : State} (hlive : s.halted = false) (hw : Half) :
    exec (.edge1 hw) s = .next (capture .m1 hw s) := by
  rw [exec, execEdge1, whenLive_of_live hlive]

theorem exec_edge0_of_halted {s : State} (hhalted : s.halted = true) (hw : Half) :
    exec (.edge0 hw) s = .next s := by
  rw [exec, execEdge0, whenLive_of_halted hhalted]

theorem exec_edge1_of_halted {s : State} (hhalted : s.halted = true) (hw : Half) :
    exec (.edge1 hw) s = .next s := by
  rw [exec, execEdge1, whenLive_of_halted hhalted]

/-! ### The capture action (R110) -/

/-- The tick position as R110 writes it: the concatenation is a shift and an or of the widened halves. -/
theorem tickpos_eq_shiftLeft_or (roll hw : Half) :
    tickpos roll hw = (roll.setWidth 32 <<< 16) ||| hw.setWidth 32 := by
  rw [tickpos, BitVec.append_def, BitVec.shiftLeftZeroExtend_eq, BitVec.setWidth'_eq]

theorem capture_roll (m : MotorId) (hw : Half) (s : State) : (capture m hw s).roll = s.roll := by
  cases m <;> rfl

theorem capture_halted (m : MotorId) (hw : Half) (s : State) : (capture m hw s).halted = s.halted := by
  cases m <;> rfl

theorem motor_capture_self (m : MotorId) (hw : Half) (s : State) :
    (capture m hw s).motor m = ((s.motor m).latch (tickpos s.roll hw)).raiseMeas := by
  rw [capture, motor_updMotor, if_pos rfl]

theorem motor_capture_of_ne {m n : MotorId} (hne : m ≠ n) (hw : Half) (s : State) :
    (capture m hw s).motor n = s.motor n := by
  rw [capture, motor_updMotor, if_neg hne]

/-- Settles O3: on a live core the capture of the motor the event code names, with its tick position written out. -/
theorem edgeLatchesTickPosition : Obligations.EdgeLatchesTickPosition := by
  refine ⟨fun hw => ⟨decodeEvent_make_edge0 hw, decodeEvent_make_edge1 hw⟩, fun s hw hlive => ?_,
    fun s hw hhalted => ⟨exec_edge0_of_halted hhalted hw, exec_edge1_of_halted hhalted hw⟩⟩
  rw [exec_edge0_of_live hlive, exec_edge1_of_live hlive, ← tickpos_eq_shiftLeft_or]
  exact ⟨rfl, rfl⟩

/-! ### A second capture (R113) -/

/-- R113, for either motor: two captures leave the tick positions of both in the latch pair, under the one `ROLL`. -/
theorem motor_capture_capture (m n : MotorId) (hne : m ≠ n) (a b : Half) (s : State) :
    let t := capture m b (capture m a s)
    (t.motor m).measReady = true ∧
      (t.motor m).bufTick.toNat = s.roll.toNat * 2 ^ 16 + a.toNat ∧
      (t.motor m).rawTick.toNat = s.roll.toNat * 2 ^ 16 + b.toNat ∧ t.motor n = s.motor n := by
  intro t
  have hpair : t.motor m =
      (((s.motor m).latch (tickpos s.roll a)).raiseMeas.latch (tickpos s.roll b)).raiseMeas := by
    rw [motor_capture_self, motor_capture_self, capture_roll]
  have hother : t.motor n = s.motor n := by
    rw [motor_capture_of_ne hne, motor_capture_of_ne hne]
  rw [hpair]
  exact ⟨rfl, tickpos_toNat s.roll a, tickpos_toNat s.roll b, hother⟩

/-- Settles O30: both events are captures of one motor, the second on the live core the first one leaves. -/
theorem secondCaptureKeepsATrueInterval : Obligations.SecondCaptureKeepsATrueInterval := by
  intro s a b hlive
  have hlive' (m : MotorId) : (capture m a s).halted = false := (capture_halted m a s).trans hlive
  exact ⟨⟨_, _, exec_edge0_of_live hlive a, exec_edge0_of_live (hlive' .m0) b,
      motor_capture_capture .m0 .m1 (by decide) a b s⟩,
    ⟨_, _, exec_edge1_of_live hlive a, exec_edge1_of_live (hlive' .m1) b,
      motor_capture_capture .m1 .m0 (by decide) a b s⟩⟩

end Sys2Proof.Machine

end

/-!
# Proofs: RPS estimator (42_rps_estimator.md)

`RPS<m>` runs the estimator's action on motor `m` of a live core (R121, R122). Its next estimate is the old one, or the
filter of the old one and a raw speed up to `RPS_MAX` (R125, R127, R128). With the filter constant 0.5 both weights are
0.5, and half of a number up to `RPS_MAX` rounds to at most half of `RPS_MAX`, which is a number itself: two such halves
add up to at most `RPS_MAX` (R130).
-/

section

namespace Sys2Proof.Machine

open Sys2Proof

/-! ### `RPS0` and `RPS1` (R120 to R122) -/

theorem exec_rps0_of_live {s : State} (hlive : s.halted = false) : exec .rps0 s = .next (rpsUpdate .m0 s) := by
  rw [exec, execRps0, whenLive_of_live hlive]

theorem exec_rps1_of_live {s : State} (hlive : s.halted = false) : exec .rps1 s = .next (rpsUpdate .m1 s) := by
  rw [exec, execRps1, whenLive_of_live hlive]

theorem exec_rps0_of_halted {s : State} (hhalted : s.halted = true) : exec .rps0 s = .next s := by
  rw [exec, execRps0, whenLive_of_halted hhalted]

theorem exec_rps1_of_halted {s : State} (hhalted : s.halted = true) : exec .rps1 s = .next s := by
  rw [exec, execRps1, whenLive_of_halted hhalted]

theorem rpsUpdate_halted (m : MotorId) (s : State) : (rpsUpdate m s).halted = s.halted := by
  cases m <;> rfl

theorem rpsUpdate_phase (m : MotorId) (s : State) : (rpsUpdate m s).phase = s.phase := by
  cases m <;> rfl

/-- The interval as R123 writes it: a difference modulo `2^32` of two unsigned numbers. -/
theorem ticks_eq_ofNat (r : MotorRegs) :
    r.ticks = BitVec.ofNat 32 ((r.rawTick.toNat + (2 ^ 32 - r.bufTick.toNat)) % 2 ^ 32) := by
  refine BitVec.eq_of_toNat_eq ?_
  rw [MotorRegs.ticks, BitVec.toNat_sub, BitVec.toNat_ofNat, Nat.mod_mod, Nat.add_comm]

/-- The `STEP` of phase 0 on a live core. -/
theorem exec_step_rps0 {s : State} (hlive : s.halted = false) (hphase : s.phase = 0#3) :
    exec .step s = Result.mapNext (exec .rps0 s) fun t => { t with phase := 1#3 } := by
  have hrun : runPhase s = exec .rps0 s := by simp only [runPhase, hphase, exec]
  rw [exec_step_of_live hlive, hrun, exec_rps0_of_live hlive]
  simp only [Result.mapNext, advancePhase, rpsUpdate_phase, hphase]
  rfl

/-- The `STEP` of phase 1 on a live core. -/
theorem exec_step_rps1 {s : State} (hlive : s.halted = false) (hphase : s.phase = 1#3) :
    exec .step s = Result.mapNext (exec .rps1 s) fun t => { t with phase := 2#3 } := by
  have hrun : runPhase s = exec .rps1 s := by simp only [runPhase, hphase, exec]
  rw [exec_step_of_live hlive, hrun, exec_rps1_of_live hlive]
  simp only [Result.mapNext, advancePhase, rpsUpdate_phase, hphase]
  rfl

/-- Settles O6: the two operations update their own motor by the model's action, whose interval is that of R123. -/
theorem rpsUpdatesTheEstimate : Obligations.RpsUpdatesTheEstimate := by
  refine ⟨fun s hlive => ?_, fun _ => exec_step_rps0, fun _ => exec_step_rps1,
    fun _ hhalted => ⟨exec_rps0_of_halted hhalted, exec_rps1_of_halted hhalted⟩⟩
  simp only [← ticks_eq_ofNat]
  exact ⟨exec_rps0_of_live hlive, exec_rps1_of_live hlive⟩

/-- The actions on the two motors commute: each reads and writes its own motor and reads the configuration. -/
theorem rpsUpdate_comm (m n : MotorId) (s : State) : rpsUpdate m (rpsUpdate n s) = rpsUpdate n (rpsUpdate m s) := by
  cases m <;> cases n <;> rfl

/-- Settles O32: each operation leaves the core live for the other, and their actions commute. -/
theorem estimatorsShareNoState : Obligations.EstimatorsShareNoState := by
  intro s hlive
  have hlive' (m : MotorId) : (rpsUpdate m s).halted = false := (rpsUpdate_halted m s).trans hlive
  refine ⟨_, _, rpsUpdate .m1 (rpsUpdate .m0 s), exec_rps0_of_live hlive, exec_rps1_of_live hlive,
    exec_rps1_of_live (hlive' .m0), ?_⟩
  rw [exec_rps0_of_live (hlive' .m1), rpsUpdate_comm]

/-! ### The near-zero test (R125) -/

/-- No tick converts to 0, and any number of ticks to at least 1. -/
theorem u32ToF32_eq_zero_or_one_le (n : BitVec 32) :
    (n.toNat = 0 ∧ f32Scaled (u32ToF32 n) = 0) ∨ (n.toNat ≠ 0 ∧ 2 ^ 149 ≤ f32Scaled (u32ToF32 n)) := by
  rcases Nat.eq_zero_or_pos n.toNat with hn | hn
  · obtain ⟨-, hval⟩ := conversionIsExactUpTo2Pow24 n (by omega)
    exact .inl ⟨hn, by simpa [hn] using hval⟩
  · obtain ⟨top, htopfin, htop⟩ := exists_finite_of_significand (n := 1) (s := 32 + 149) (by norm_num) (by norm_num)
    have hlt := n.isLt
    obtain ⟨-, hone, -⟩ := u32ToF32_between n f32One top htopfin (by rw [one_value.2, unit_eq]; omega)
      (by rw [htop, Nat.cast_mul, unit_eq]; push_cast; omega)
    exact .inr ⟨hn.ne', by rwa [one_value.2] at hone⟩

/-- Settles O48: a threshold between 0 and 1 separates 0 from every other tick count. -/
theorem nearZeroTestMeansNoTicks : Obligations.NearZeroTestMeansNoTicks := by
  intro c n hcfg
  obtain ⟨-, -, -, -, ⟨htmin, htmin0, htmin1⟩, -⟩ := (configurationCheckIsRuleNine c).1 hcfg
  obtain ⟨hfin, -, -⟩ := u32ToF32_bounds n
  rw [flt_iff hfin htmin]
  rcases u32ToF32_eq_zero_or_one_le n with ⟨hn, hval⟩ | ⟨hn, hval⟩
  · exact iff_of_true (by omega) hn
  · exact iff_of_false (by omega) hn

/-! ### What the estimator writes (R125, R127, R128) -/

/-- The next estimate is the old one, or the filter of the old one and a raw speed up to `RPS_MAX`. -/
theorem nextEstimate_cases {cfg : Cfg} (hcfg : cfg.wellFormed = true) (hspeeds : cfg.speedsOrdinary) (frps : F32)
    (ticks : BitVec 32) :
    nextEstimate cfg frps ticks = frps ∨
    ∃ raw, FiniteUpTo (f32Scaled cfg.rpsMax.bits).toNat raw ∧
      nextEstimate cfg frps ticks = filterSpeed cfg frps raw := by
  obtain ⟨hmax, hmax0⟩ := posF32_bits cfg.rpsMax
  obtain ⟨ht, htle, -⟩ := u32ToF32_bounds ticks
  unfold nextEstimate
  simp only
  split
  next => exact .inl rfl
  next hnear =>
    rw [nearZeroTestMeansNoTicks cfg ticks hcfg] at hnear
    rcases u32ToF32_eq_zero_or_one_le ticks with ⟨hzero, -⟩ | ⟨-, htone⟩
    · exact absurd hzero hnear
    obtain ⟨hraw, hraw0⟩ := rawSpeed_finite hspeeds ht htone htle
    split
    next => exact .inl rfl
    next hfar =>
      rw [fgt_iff hraw hmax, not_lt] at hfar
      exact .inr ⟨_, ⟨hraw, hraw0, by omega⟩, rfl⟩

/-- What every next estimate keeps, an operation other than `STEP` and `RESET` keeps of both estimates. -/
theorem Effect.estimates {P : F32 → Prop} {op : Instr} {s u : State} (h : Effect op s u)
    (hnext : ∀ frps ticks, P frps → P (nextEstimate s.cfg frps ticks)) (h0 : P s.motor0.frps)
    (h1 : P s.motor1.frps) : P u.motor0.frps ∧ P u.motor1.frps := by
  have hupdate (r : MotorRegs) (hr : P r.frps) : P (r.rpsUpdate s.cfg).frps := by
    rw [rpsUpdate_frps]
    split
    · exact hnext _ _ hr
    · exact hr
  cases h with
  | estimate0 => exact ⟨hupdate _ h0, h1⟩
  | estimate1 => exact ⟨h0, hupdate _ h1⟩
  | _ => exact ⟨by simpa using h0, by simpa using h1⟩

/-- What holds of `+0.0` and is kept by every next estimate, an operation that answers a next state keeps of both
estimates. -/
theorem exec_estimates {P : F32 → Prop} {i : Instr} {s t : State} (h : exec i s = .next t) (hzero : P f32Zero)
    (hnext : ∀ frps ticks, P frps → P (nextEstimate s.cfg frps ticks)) (h0 : P s.motor0.frps)
    (h1 : P s.motor1.frps) : P t.motor0.frps ∧ P t.motor1.frps := by
  by_cases hi : i = .reset
  · subst hi
    rw [execReset_next h]
    exact ⟨hzero, hzero⟩
  · obtain ⟨u, hu, rfl | ⟨-, rfl⟩⟩ := exec_effect h hi
    · exact hu.estimates hnext h0 h1
    · exact hu.estimates hnext h0 h1

/-! ### The filter with `ALPHA` 0.5 (R130) -/

theorem half_value : f32IsFinite 0x3F000000#32 = true ∧ f32Scaled 0x3F000000#32 = 2 ^ 148 := by decide +kernel

theorem fsub_one_half : fsub f32One 0x3F000000#32 = 0x3F000000#32 := by decide +kernel

/-- A number with all 24 bits of its significand has a half: the same significand at a shift one less. -/
theorem exists_half {x : F32} (hlo : 2 ^ 24 < f32Scaled x) (hhi : f32Scaled x ≤ 2 ^ 276) :
    ∃ y : F32, f32IsFinite y = true ∧ f32Scaled x = 2 * f32Scaled y := by
  obtain ⟨n, s, hn, hx, hs⟩ := exists_significand (x := x) (by omega)
  cases s with
  | zero =>
    rw [pow_zero, mul_one] at hx
    omega
  | succ s =>
    have hn23 : 2 ^ 23 ≤ n := hs.resolve_left (Nat.succ_ne_zero s)
    have hshift : 23 + (s + 1) ≤ 276 := by
      refine (Nat.pow_le_pow_iff_right (a := 2) (by norm_num)).1 ?_
      calc 2 ^ (23 + (s + 1)) = 2 ^ 23 * 2 ^ (s + 1) := pow_add ..
        _ ≤ n * 2 ^ (s + 1) := Nat.mul_le_mul_right _ hn23
        _ ≤ 2 ^ 276 := by rw [hx] at hhi; exact_mod_cast hhi
    obtain ⟨y, hfin, hy⟩ := exists_finite_of_significand hn (s := s) (by omega)
    exact ⟨y, hfin, by rw [hx, hy, pow_succ]; ring⟩

/-- Half of a number is at most `y` when the number is at most twice `y`: rounding does not pass a number. -/
theorem fmul_half_le {x y : F32} (hy : f32IsFinite y = true) (hy0 : 0 ≤ f32Scaled y)
    (hx : FiniteUpTo (2 * f32Scaled y).toNat x) :
    f32IsFinite (fmul 0x3F000000#32 x) = true ∧ 0 ≤ f32Scaled (fmul 0x3F000000#32 x) ∧
    f32Scaled (fmul 0x3F000000#32 x) ≤ f32Scaled y := by
  obtain ⟨hxfin, hx0, hxle⟩ := hx
  have hbetween := fmul_between 0x3F000000#32 x f32Zero y half_value.1 hxfin zero_value.1 hy
    (by rw [zero_value.2, half_value.2]; omega) (by rw [half_value.2, unit_eq]; omega)
  rwa [zero_value.2] at hbetween

/-- With the weights 0.5 the filter keeps an estimate within a bound that has a half, when the raw speed is within
it too. -/
theorem filterSpeed_half_le {cfg : Cfg} (halpha : cfg.alpha = 0x3F000000#32) {top half frps raw : F32}
    (htop : f32IsFinite top = true) (htop0 : 0 ≤ f32Scaled top) (hhalf : f32IsFinite half = true)
    (htwice : f32Scaled top = 2 * f32Scaled half) (hfrps : FiniteUpTo (f32Scaled top).toNat frps)
    (hraw : FiniteUpTo (f32Scaled top).toNat raw) :
    FiniteUpTo (f32Scaled top).toNat (filterSpeed cfg frps raw) := by
  rw [filterSpeed, halpha, fsub_one_half]
  obtain ⟨hold, hold0, holdle⟩ := fmul_half_le hhalf (by omega) (htwice ▸ hfrps)
  obtain ⟨hnew, hnew0, hnewle⟩ := fmul_half_le hhalf (by omega) (htwice ▸ hraw)
  obtain ⟨hfin, hlo, hhi⟩ := fadd_between _ _ f32Zero top hold hnew zero_value.1 htop
    (by rw [zero_value.2]; exact add_nonneg hold0 hnew0) (by omega)
  rw [zero_value.2] at hlo
  exact ⟨hfin, hlo, by omega⟩

/-- Settles O51: `RPS_MAX` has a half, so each next estimate stays within it, and only the estimator and `RESET` write
the estimates. -/
theorem halfFilterStaysBelievable : Obligations.HalfFilterStaysBelievable := by
  intro s t i hcfg halpha hspeeds hmin h0 h1 h
  have ⟨_, hmaxle, _⟩ := hspeeds
  obtain ⟨hmax, hmax0⟩ := posF32_bits s.cfg.rpsMax
  rw [Nat.cast_mul, unit_eq] at hmaxle
  push_cast at hmaxle
  obtain ⟨half, hhalf, htwice⟩ := exists_half (x := s.cfg.rpsMax.bits) (by omega) (by omega)
  refine exec_estimates h (finiteUpTo_zero _) (fun frps ticks hfrps => ?_) h0 h1
  rcases nextEstimate_cases hcfg hspeeds frps ticks with hkept | ⟨raw, hraw, hfiltered⟩
  · rwa [hkept]
  · rw [hfiltered]
    exact filterSpeed_half_le halpha hmax hmax0.le hhalf htwice hfrps hraw

/-! ### Worked values (R121, 43_pi_loop.md R147) -/

/-- Settles O54: no parameter left open enters the three formulas, so each value is computed. -/
theorem workedExamples : Obligations.WorkedExamples := by
  refine ⟨?_, ?_, ?_, ?_, ?_, ?_⟩ <;> decide +kernel

end Sys2Proof.Machine

end

/-!
# Proofs: PI loop (43_pi_loop.md)

`PI` is one of three cases: nothing, a consumed flag, or a control update of both motors (R145). So the collaborators
are called with a finite error only and stay reachable (R143), the compare registers of an Idle core stay off, and with
no tick pending nothing is updated (R149). The PWM mapping (R146) is a difference, a product and a quotient by 100, then
a rounding to an integer: each of the four keeps the order of its operand, and each is exact at both ends of the range,
0 and 100 (R147).
-/

section

namespace Sys2Proof.Machine

open Sys2Proof

/-! ### `SAMPLE` (R140) -/

theorem decodeEvent_make_sample (d : Half) : decodeEvent (EventWord.make 0x4#4 d) = .sample := by
  simp [decodeEvent]

theorem exec_sample_of_live {s : State} (hlive : s.halted = false) :
    exec .sample s = .next (countSample (raiseTick s)) := by
  rw [exec, execSample, whenLive_of_live hlive]

theorem exec_sample_of_halted {s : State} (hhalted : s.halted = true) : exec .sample s = .next s := by
  rw [exec, execSample, whenLive_of_halted hhalted]

theorem exec_sample_of_running {s : State} (hlive : s.halted = false) (hrun : s.running = true) :
    exec .sample s = .next { s with tickReady := true, elapsed := s.elapsed + 1#32 } := by
  rw [exec_sample_of_live hlive, countSample, raiseTick_running, if_pos hrun]
  rfl

theorem exec_sample_of_idle {s : State} (hlive : s.halted = false) (hidle : s.running = false) :
    exec .sample s = .next { s with tickReady := true } := by
  rw [exec_sample_of_live hlive, countSample, raiseTick_running, if_neg (by simp [hidle])]
  rfl

/-- Settles O4: the sum of 32-bit words is the sum of their numbers modulo `2^32`. -/
theorem sampleSetsTickAndCounts : Obligations.SampleSetsTickAndCounts := by
  refine ⟨decodeEvent_make_sample, fun s hlive => ?_, fun s => exec_sample_of_halted⟩
  have helapsed : s.elapsed + 1#32 = BitVec.ofNat 32 ((s.elapsed.toNat + 1) % 2 ^ 32) :=
    BitVec.eq_of_toNat_eq (by simp)
  split
  next hrun => rw [exec_sample_of_running hlive hrun, helapsed]
  next hidle => exact exec_sample_of_idle hlive (by simpa using hidle)

/-! ### `PI` (R145) -/

theorem exec_pi_of_live {s : State} (hlive : s.halted = false) : exec .pi s = .next (piPhase s.cfg.pi s) := by
  rw [exec, execPi, whenLive_of_live hlive]

theorem exec_pi_of_halted {s : State} (hhalted : s.halted = true) : exec .pi s = .next s := by
  rw [exec, execPi, whenLive_of_halted hhalted]

theorem exec_pi_of_no_tick {s : State} (hlive : s.halted = false) (htick : s.tickReady = false) :
    exec .pi s = .next s := by
  rw [exec_pi_of_live hlive, piPhase, if_neg (by simp [htick])]

theorem exec_pi_of_idle {s : State} (hlive : s.halted = false) (htick : s.tickReady = true)
    (hidle : s.running = false) : exec .pi s = .next (clearTick s) := by
  simp [exec_pi_of_live hlive, piPhase, htick, hidle]

theorem exec_pi_of_running {s : State} (hlive : s.halted = false) (htick : s.tickReady = true)
    (hrun : s.running = true) :
    exec .pi s = .next (emit .pwmClr ((clearTick s).updMotors (MotorRegs.piUpdate s.cfg.pi s.cfg))) := by
  simp [exec_pi_of_live hlive, piPhase, htick, hrun]

theorem piPhase_phase (c : Collaborator) (s : State) : (piPhase c s).phase = s.phase := by
  rcases piPhase_cases c s with ⟨-, e⟩ | ⟨-, -, e⟩ | ⟨-, -, e⟩ <;> simp [e]

/-- After `PI` no tick is pending, whatever the core was doing. -/
theorem piPhase_tickReady (c : Collaborator) (s : State) : (piPhase c s).tickReady = false := by
  rcases piPhase_cases c s with ⟨htick, e⟩ | ⟨-, -, e⟩ | ⟨-, -, e⟩
  · rw [e, htick]
  · simp [e]
  · simp [e]

/-- The `STEP` of phase 2 on a live core. -/
theorem exec_step_pi {s : State} (hlive : s.halted = false) (hphase : s.phase = 2#3) :
    exec .step s = Result.mapNext (exec .pi s) fun t => { t with phase := 3#3 } := by
  have hrun : runPhase s = exec .pi s := by simp only [runPhase, hphase, exec]
  rw [exec_step_of_live hlive, hrun, exec_pi_of_live hlive]
  simp only [Result.mapNext, advancePhase, piPhase_phase, hphase]
  rfl

/-- Settles O7: the three cases of `PI`, the control update written out. -/
theorem piUpdatesBothMotors : Obligations.PiUpdatesBothMotors := by
  refine ⟨fun s hnone => ?_, fun s => exec_step_pi, fun s hlive htick hidle => ?_, fun s hlive htick hrun => ?_⟩
  · cases hhalted : s.halted
    · exact exec_pi_of_no_tick hhalted (hnone.resolve_left (by simp [hhalted]))
    · exact exec_pi_of_halted hhalted
  · exact exec_pi_of_idle hlive htick hidle
  · exact exec_pi_of_running hlive htick hrun

/-- Settles O31: the second `SAMPLE` finds the tick already raised, so `PI` works on the same motors after either. -/
theorem sampleOverrunAdvancesOnce : Obligations.SampleOverrunAdvancesOnce := by
  intro s hlive hrun
  refine ⟨_, _, _, _, exec_sample_of_running hlive hrun, exec_sample_of_running hlive hrun,
    exec_pi_of_running hlive rfl hrun, exec_pi_of_running hlive rfl hrun, ?_, rfl, rfl⟩
  rw [BitVec.add_assoc]
  rfl

/-! ### The collaborators (R143, R144) -/

/-- Settles O52: the law of the collaborator's type, in a reachable state or the reachable one it is cleared to. -/
theorem collaboratorAnswersWithinBounds : Obligations.CollaboratorAnswersWithinBounds := by
  intro cfg p q err hcfg hp hq herr
  have hreach : PiReachable cfg.pi cfg q := by
    rcases hq with rfl | rfl
    · exact hp
    · exact .clear hp
  have hlaw : cfg.pi.Lawful cfg := (Config.collaborator cfg).lawful hcfg
  obtain ⟨-, -, hout, hmin, hmax⟩ := (f32Within_iff _ _ _).1 (hlaw q cfg.tS err hreach herr)
  exact ⟨hout, hmin, hmax⟩

/-- The control update of a motor that drives towards `RPS_ON` calls the collaborator within its contract. -/
theorem piUpdate_reachable {cfg : Cfg} {r : MotorRegs} (hset : r.setpoint = cfg.rpsOn.bits)
    (hfrps : FiniteUpTo (2 ^ 65 * f32Unit) r.frps) (hr : PiReachable cfg.pi cfg r.pictl) :
    PiReachable cfg.pi cfg (r.piUpdate cfg.pi cfg).pictl := by
  rw [piUpdate_pictl, hset]
  exact .advance cfg.tS hr (runningError_finite cfg.rpsOn hfrps)

section Invariants

variable {op : Instr} {s u : State}

/-- The states of the collaborators change by `PI.advance` on a Running core, and by `PI.clear`. -/
theorem Effect.collaboratorsReachable (h : Effect op s u) (hset : SetpointsFollowRunning s) (hest : EstimatesFinite s)
    (hs : CollaboratorsReachable s) : CollaboratorsReachable u := by
  obtain ⟨hreach0, hreach1⟩ := hs
  cases h with
  | control _ _ hrun =>
    obtain ⟨hset0, hset1⟩ := hset
    rw [hrun, if_pos rfl] at hset0 hset1
    exact ⟨piUpdate_reachable hset0 hest.1 hreach0, piUpdate_reachable hset1 hest.2 hreach1⟩
  | complete _ => exact ⟨.clear hreach0, .clear hreach1⟩
  | _ => exact ⟨by simpa using hreach0, by simpa using hreach1⟩

/-- A compare register leaves `MAXC` on a Running core only, and the end of a command sets it back (R149, R171). -/
theorem Effect.offWhileIdle (h : Effect op s u) (hs : OffWhileIdle s) : OffWhileIdle u := by
  cases h with
  | control _ _ hrun => exact fun hidle => absurd (hrun.symm.trans hidle) nofun
  | complete _ => exact fun _ => ⟨rfl, rfl⟩
  | parse _ _ _ => simp [OffWhileIdle]
  | command _ _ _ _ => simp [OffWhileIdle]
  | _ => simpa [OffWhileIdle] using hs

/-- With no tick pending a core that is Running afterwards has the collaborator states and compares it had: the
control update needs a tick, and the end of a command leaves the core Idle. -/
theorem Effect.outputs_eq_of_no_tick (h : Effect op s u) (htick : s.tickReady = false) (hrun : u.running = true) :
    u.motor0.pictl = s.motor0.pictl ∧ u.motor1.pictl = s.motor1.pictl ∧
    u.motor0.ocr = s.motor0.ocr ∧ u.motor1.ocr = s.motor1.ocr := by
  cases h with
  | control _ htick' _ => exact absurd (htick.symm.trans htick') nofun
  | complete _ => exact absurd hrun nofun
  | _ => simp

end Invariants

/-- Settles O57: `RESET` initialises both collaborators, and every effect calls them within their contract. -/
theorem everyStepKeepsCollaboratorsReachable : Obligations.EveryStepKeepsCollaboratorsReachable := by
  intro s t ⟨_, _, hset, _⟩ hest hs h
  exact step_establishes h ⟨.init, .init⟩ (fun _ _ hu => hu.collaboratorsReachable hset hest hs) (fun _ hu => hu)

/-- Settles O44: `RESET` sets both compares to `MAXC`, and every effect keeps them there while the core is Idle. -/
theorem everyStepKeepsMotorsOffWhileIdle : Obligations.EveryStepKeepsMotorsOffWhileIdle := by
  intro s t hs h
  exact step_establishes h (fun _ => ⟨rfl, rfl⟩) (fun _ _ hu => hu.offWhileIdle hs) (fun _ hu => hu)

/-! ### Control updates and samples (R149) -/

/-- `SAMPLE` is the operation of no phase, so it runs only where its own word is on the port. -/
theorem eq_sample_of_operationOf {i : Instr} {s : State} (h : operationOf i s = .sample) : i = .sample := by
  have hphases : ∀ phase : BitVec 3, (phaseInstr phase).getD .step ≠ .sample := by decide
  unfold operationOf at h
  split at h
  next => exact absurd h (hphases s.phase)
  next => exact h

/-- Settles O60: only the effect of `SAMPLE` raises the tick, and only with a tick is there a control update. -/
theorem controlUpdateWaitsForASample : Obligations.ControlUpdateWaitsForASample := by
  refine ⟨fun s hlive _ => ⟨_, exec_pi_of_live hlive, piPhase_tickReady _ _⟩, fun s t htick hsample h => ?_⟩
  obtain ⟨-, hexec⟩ := step_next h
  by_cases hi : decodeEvent (fetchWord s) = .reset
  · rw [hi] at hexec
    rw [execReset_next hexec]
    exact ⟨rfl, rfl, nofun⟩
  obtain ⟨u, hu, ht⟩ := exec_effect hexec hi
  have htick' : (beginStep s).tickReady = false := htick
  have hticku : u.tickReady = false := by
    refine Bool.eq_false_iff.2 fun hraised => hsample (eq_sample_of_operationOf (s := beginStep s) ?_)
    exact set_of_rises hu.tick_writer htick' hraised
  have hemitted : u.emitted = [] := by
    by_contra hne
    obtain ⟨-, -, -, hraised, -⟩ := hu.emitted_writer hne
    exact absurd (htick'.symm.trans hraised) nofun
  have houtputs := hu.outputs_eq_of_no_tick htick'
  rcases ht with rfl | ⟨-, rfl⟩ <;> exact ⟨hticku, hemitted, houtputs⟩

/-! ### Rounded results keep the order of exact results

A result that is not negative has the value of the rounded magnitude bits of the exact one, whatever the sign of a
zero, and rounding keeps the order. -/

/-- Rounded magnitudes keep the order of exact values. -/
theorem magnitudeOf_roundBits_mono {n₁ n₂ den : Nat} (hd : 0 < den) (h : n₁ ≤ n₂) :
    (f32MagnitudeOf (f32RoundBits n₁ den) : Int) ≤ f32MagnitudeOf (f32RoundBits n₂ den) := by
  exact_mod_cast magnitudeOf_strictMono.monotone (roundBits_mono hd h)

/-- A fraction with the sign of a number that is not negative rounds to the rounded magnitude. -/
theorem scaled_round_of_nonneg (op : FloatOp) (a b : F32) {neg : Bool} {num den : Nat} (hd : 0 < den)
    (hneg : neg = true → num = 0) (hov : BelowOverflow num den) :
    f32Scaled (f32Round op a b neg num den) = f32MagnitudeOf (f32RoundBits num den) := by
  rw [f32Round, if_pos (roundBits_lt_infinity hd hov), pack_scaled _ _ (roundBits_lt_infinity hd hov)]
  cases neg
  · rfl
  · rw [hneg rfl, roundBits_zero den hd, magnitudeOf_small 0 (by norm_num)]
    rfl

/-- A number that is not negative has magnitude 0 if its sign is set. -/
theorem magnitude_eq_zero_of_sign {x : F32} (h0 : 0 ≤ f32Scaled x) (hsign : f32Sign x = true) :
    f32Magnitude x = 0 := by
  rw [f32Scaled, if_pos hsign] at h0
  omega

/-- A number greater than zero has a magnitude greater than zero. -/
theorem magnitude_pos_of_scaled_pos {x : F32} (h : 0 < f32Scaled x) : 0 < f32Magnitude x := by
  have hval := scaled_of_nonneg x h.le
  omega

theorem scaled_fsub_of_le {a b : F32} (ha : f32IsFinite a = true) (hb : f32IsFinite b = true)
    (hle : f32Scaled b ≤ f32Scaled a) (hov : BelowOverflow (f32Scaled a - f32Scaled b) 1) :
    f32Scaled (fsub a b) = f32MagnitudeOf (f32RoundBits (f32Scaled a - f32Scaled b).natAbs 1) := by
  rw [fsub, if_pos (by rw [ha, hb]; rfl), f32RoundSum]
  split
  next hzero =>
    rw [hzero, pack_scaled _ _ (by decide), Int.natAbs_zero, roundBits_zero 1 Nat.one_pos,
      magnitudeOf_small 0 (by norm_num)]
    simp
  next =>
    refine scaled_round_of_nonneg _ _ _ Nat.one_pos (fun hneg => ?_) (by simpa [BelowOverflow] using hov)
    have := of_decide_eq_true hneg
    omega

theorem scaled_fmul_of_nonneg {a b : F32} (ha : f32IsFinite a = true) (hb : f32IsFinite b = true)
    (ha0 : 0 ≤ f32Scaled a) (hb0 : 0 ≤ f32Scaled b) (hov : BelowOverflow (f32Scaled a * f32Scaled b) f32Unit) :
    f32Scaled (fmul a b) = f32MagnitudeOf (f32RoundBits (f32Magnitude a * f32Magnitude b) f32Unit) := by
  rw [scaled_of_nonneg a ha0, scaled_of_nonneg b hb0] at hov
  rw [fmul, if_pos (by rw [ha, hb]; rfl)]
  refine scaled_round_of_nonneg _ _ _ unit_pos (fun hneg => ?_) (by exact_mod_cast hov)
  cases hsign : f32Sign a
  · rw [hsign] at hneg
    rw [magnitude_eq_zero_of_sign hb0 (by simpa using hneg), Nat.mul_zero]
  · rw [magnitude_eq_zero_of_sign ha0 hsign, Nat.zero_mul]

theorem scaled_fdiv_of_nonneg {a b : F32} (ha : f32IsFinite a = true) (hb : f32IsFinite b = true)
    (ha0 : 0 ≤ f32Scaled a) (hb0 : 0 < f32Scaled b) (hov : BelowOverflow (f32Scaled a * f32Unit) (f32Scaled b)) :
    f32Scaled (fdiv a b) = f32MagnitudeOf (f32RoundBits (f32Magnitude a * f32Unit) (f32Magnitude b)) := by
  have hsignb : f32Sign b = false := ((scaled_pos_iff b).1 hb0).1
  have hmag := magnitude_pos_of_scaled_pos hb0
  rw [scaled_of_nonneg a ha0, scaled_of_nonneg b hb0.le] at hov
  rw [fdiv, if_pos (by simp [ha, hb, hmag.ne'])]
  refine scaled_round_of_nonneg _ _ _ hmag (fun hneg => ?_) (by exact_mod_cast hov)
  rw [hsignb] at hneg
  rw [magnitude_eq_zero_of_sign ha0 (by simpa using hneg), Nat.zero_mul]

/-- Magnitudes of numbers that are not negative are in the order of the values. -/
theorem magnitude_le_of_scaled_le {x y : F32} (h0 : 0 ≤ f32Scaled x) (h : f32Scaled x ≤ f32Scaled y) :
    f32Magnitude x ≤ f32Magnitude y := by
  have hx := scaled_of_nonneg x h0
  have hy := scaled_of_nonneg y (h0.trans h)
  omega

/-- What is no larger than a number below the overflow point is below it too. -/
theorem belowOverflow_of_le {n₁ n₂ den : Int} (h : BelowOverflow n₂ den) (h0 : 0 ≤ n₁) (hle : n₁ ≤ n₂) :
    BelowOverflow n₁ den := by
  rw [BelowOverflow, abs_of_nonneg h0]
  rw [BelowOverflow, abs_of_nonneg (h0.trans hle)] at h
  omega

theorem fsub_antitone {a x y : F32} (ha : f32IsFinite a = true) (hx : f32IsFinite x = true)
    (hy : f32IsFinite y = true) (hxy : f32Scaled x ≤ f32Scaled y) (hya : f32Scaled y ≤ f32Scaled a)
    (hov : BelowOverflow (f32Scaled a - f32Scaled x) 1) : f32Scaled (fsub a y) ≤ f32Scaled (fsub a x) := by
  rw [scaled_fsub_of_le ha hx (hxy.trans hya) hov,
    scaled_fsub_of_le ha hy hya (belowOverflow_of_le hov (by omega) (by omega))]
  exact magnitudeOf_roundBits_mono Nat.one_pos (by omega)

theorem fmul_monotone {a x y : F32} (ha : f32IsFinite a = true) (hx : f32IsFinite x = true)
    (hy : f32IsFinite y = true) (ha0 : 0 ≤ f32Scaled a) (hx0 : 0 ≤ f32Scaled x) (hxy : f32Scaled x ≤ f32Scaled y)
    (hov : BelowOverflow (f32Scaled a * f32Scaled y) f32Unit) : f32Scaled (fmul a x) ≤ f32Scaled (fmul a y) := by
  have hovx := belowOverflow_of_le hov (mul_nonneg ha0 hx0) (mul_le_mul_of_nonneg_left hxy ha0)
  rw [scaled_fmul_of_nonneg ha hx ha0 hx0 hovx, scaled_fmul_of_nonneg ha hy ha0 (hx0.trans hxy) hov]
  exact magnitudeOf_roundBits_mono unit_pos (Nat.mul_le_mul_left _ (magnitude_le_of_scaled_le hx0 hxy))

theorem fdiv_monotone {x y b : F32} (hx : f32IsFinite x = true) (hy : f32IsFinite y = true)
    (hb : f32IsFinite b = true) (hx0 : 0 ≤ f32Scaled x) (hxy : f32Scaled x ≤ f32Scaled y) (hb0 : 0 < f32Scaled b)
    (hov : BelowOverflow (f32Scaled y * f32Unit) (f32Scaled b)) : f32Scaled (fdiv x b) ≤ f32Scaled (fdiv y b) := by
  have hovx := belowOverflow_of_le hov (mul_nonneg hx0 (Int.natCast_nonneg _))
    (mul_le_mul_of_nonneg_right hxy (Int.natCast_nonneg _))
  rw [scaled_fdiv_of_nonneg hx hb hx0 hb0 hovx, scaled_fdiv_of_nonneg hy hb (hx0.trans hxy) hb0 hov]
  exact magnitudeOf_roundBits_mono (magnitude_pos_of_scaled_pos hb0)
    (Nat.mul_le_mul_right _ (magnitude_le_of_scaled_le hx0 hxy))

/-- Rounding to an integer keeps the order of numbers that are not negative: where both are half-way, it is upwards. -/
theorem roundHaz_monotone {x y : F32} (hx : f32IsFinite x = true) (hy : f32IsFinite y = true)
    (hx0 : 0 ≤ f32Scaled x) (hxy : f32Scaled x ≤ f32Scaled y) : roundHaz x ≤ roundHaz y := by
  obtain ⟨hnearx, -⟩ := roundHazIsNearestAwayFromZero x hx
  obtain ⟨hneary, htie⟩ := roundHazIsNearestAwayFromZero y hy
  by_contra hlt
  have hhi := le_abs_self (roundHaz x * 2 ^ 149 - f32Scaled x)
  have hlo := neg_abs_le (roundHaz y * 2 ^ 149 - f32Scaled y)
  have haway := htie (by omega)
  rw [abs_of_nonneg (hx0.trans hxy)] at haway
  rcases abs_cases (roundHaz y) with ⟨e, -⟩ | ⟨e, hneg⟩ <;> rw [e] at haway <;> omega

/-! ### The mapping at the ends of its range (R146, R147) -/

/-- The product of `MAXC` with a number between two integers up to 100 lies between the two exact products. -/
theorem fmul_maxc_between {cfg : Cfg} (htop : cfg.topOrdinary) {x : F32} {j k : Nat} (hk : k ≤ 100)
    (hx : f32IsFinite x = true) (hlo : (j * 2 ^ 149 : Int) ≤ f32Scaled x) (hhi : f32Scaled x ≤ (k * 2 ^ 149 : Int)) :
    f32IsFinite (fmul (u32ToF32 cfg.maxc) x) = true ∧
    ((cfg.maxc.toNat * j : Nat) * 2 ^ 149 : Int) ≤ f32Scaled (fmul (u32ToF32 cfg.maxc) x) ∧
    f32Scaled (fmul (u32ToF32 cfg.maxc) x) ≤ ((cfg.maxc.toNat * k : Nat) * 2 ^ 149 : Int) := by
  have hmaxc : cfg.maxc.toNat ≤ 0xFFFF := htop
  have hjk : j ≤ k := by omega
  have hprodk : cfg.maxc.toNat * k ≤ 2 ^ 24 := (Nat.mul_le_mul hmaxc hk).trans (by norm_num)
  obtain ⟨hm, hmval⟩ := conversionIsExactUpTo2Pow24 cfg.maxc (by omega)
  obtain ⟨lo, hlofin, hloval⟩ := exists_scaled_eq_nat ((Nat.mul_le_mul_left _ hjk).trans hprodk)
  obtain ⟨hi, hhifin, hhival⟩ := exists_scaled_eq_nat hprodk
  have hm0 : 0 ≤ f32Scaled (u32ToF32 cfg.maxc) := by omega
  have hmul := fmul_between (u32ToF32 cfg.maxc) x lo hi hm hx hlofin hhifin
    (calc f32Scaled lo * f32Unit = f32Scaled (u32ToF32 cfg.maxc) * (j * 2 ^ 149) := by
            rw [hloval, hmval, unit_eq]; push_cast; ring
      _ ≤ f32Scaled (u32ToF32 cfg.maxc) * f32Scaled x := mul_le_mul_of_nonneg_left hlo hm0)
    (calc f32Scaled (u32ToF32 cfg.maxc) * f32Scaled x
        ≤ f32Scaled (u32ToF32 cfg.maxc) * (k * 2 ^ 149) := mul_le_mul_of_nonneg_left hhi hm0
      _ = f32Scaled hi * f32Unit := by rw [hhival, hmval, unit_eq]; push_cast; ring)
  rwa [hloval, hhival] at hmul

/-- A hundredth of a number between two multiples of 100 lies between the two exact quotients. -/
theorem fdiv_hundred_between {y : F32} {j k : Nat} (hk : k ≤ 2 ^ 24) (hy : f32IsFinite y = true)
    (hlo : ((j * 100 : Nat) * 2 ^ 149 : Int) ≤ f32Scaled y) (hhi : f32Scaled y ≤ ((k * 100 : Nat) * 2 ^ 149 : Int)) :
    f32IsFinite (fdiv y f32Hundred) = true ∧ (j * 2 ^ 149 : Int) ≤ f32Scaled (fdiv y f32Hundred) ∧
    f32Scaled (fdiv y f32Hundred) ≤ (k * 2 ^ 149 : Int) := by
  obtain ⟨hhundred, hval⟩ := hundred_value
  obtain ⟨lo, hlofin, hloval⟩ := exists_scaled_eq_nat (n := j) (by omega)
  obtain ⟨hi, hhifin, hhival⟩ := exists_scaled_eq_nat hk
  have hdiv := fdiv_between y f32Hundred lo hi hy hhundred (by rw [hval]; norm_num) hlofin hhifin
    (by rw [hloval, hval, unit_eq]; omega) (by rw [hhival, hval, unit_eq]; omega)
  rwa [hloval, hhival] at hdiv

/-- An integer rounds to itself. -/
theorem roundHaz_of_integer {x : F32} {n : Nat} (hx : f32IsFinite x = true) (hval : f32Scaled x = n * 2 ^ 149) :
    roundHaz x = n := by
  obtain ⟨hnear, -⟩ := roundHazIsNearestAwayFromZero x hx
  obtain ⟨hlo, hhi⟩ := abs_le.1 (show |roundHaz x * 2 ^ 149 - f32Scaled x| ≤ 2 ^ 148 by omega)
  omega

/-- An output whose distance from 100 is 0 or 100 maps exactly, to 0 or `MAXC`. -/
theorem dutyToCompare_of_end {cfg : Cfg} (htop : cfg.topOrdinary) {out : F32} {k : Nat} (hk : k ≤ 1)
    (hfin : f32IsFinite (fsub f32Hundred out) = true)
    (hval : f32Scaled (fsub f32Hundred out) = (k * 100 : Nat) * 2 ^ 149) :
    dutyToCompare cfg out = (cfg.maxc.toNat * k : Nat) := by
  have hmaxc : cfg.maxc.toNat ≤ 0xFFFF := htop
  obtain ⟨hy, hylo, hyhi⟩ := fmul_maxc_between htop (j := k * 100) (k := k * 100) (by omega) hfin hval.ge hval.le
  rw [← Nat.mul_assoc] at hylo hyhi
  have hle : cfg.maxc.toNat * k ≤ 2 ^ 24 := (Nat.mul_le_mul hmaxc hk).trans (by norm_num)
  obtain ⟨hz, hzlo, hzhi⟩ := fdiv_hundred_between hle hy hylo hyhi
  exact roundHaz_of_integer hz (le_antisymm hzhi hzlo)

theorem fsub_hundred_zero : fsub f32Hundred 0x00000000#32 = f32Hundred := by decide +kernel

theorem fsub_hundred_hundred : fsub f32Hundred 0x42C80000#32 = f32Zero := by decide +kernel

/-- Settles O49: within the bounds the mapping is in range, and at 0 and 100 each of its operations is exact. -/
theorem dutyMappingStaysInRange : Obligations.DutyMappingStaysInRange := by
  refine ⟨fun c out hcfg htop hwithin => ?_, fun c htop => ⟨?_, ?_⟩⟩
  · obtain ⟨-, -, hout, hmin, hmax⟩ := (f32Within_iff _ _ _).1 hwithin
    obtain ⟨-, -, -, -, -, -, -, hmaxc, -, -, hmin0, -, hmax100⟩ := (configurationCheckIsRuleNine c).1 hcfg
    obtain ⟨hlo, hhi⟩ := dutyToCompare_mem htop hout (hmin0.trans hmin) (hmax.trans hmax100)
    have hwidth : 0 < 2 ^ c.ocrW := by positivity
    exact ⟨hlo, hhi, compareWrite_of_mem hlo (by omega)⟩
  · rw [dutyToCompare_of_end htop (k := 1) le_rfl (by rw [fsub_hundred_zero]; exact hundred_value.1)
      (by rw [fsub_hundred_zero, hundred_value.2]; norm_num), Nat.mul_one]
  · rw [dutyToCompare_of_end htop (k := 0) zero_le_one (by rw [fsub_hundred_hundred]; exact zero_value.1)
      (by rw [fsub_hundred_hundred, zero_value.2]; norm_num), Nat.mul_zero]
    rfl

/-! ### The mapping keeps the order (R147) -/

/-- An ordinary `MAXC` times a number between 0 and 100 is far below the overflow point. -/
theorem belowOverflow_product {cfg : Cfg} (htop : cfg.topOrdinary) {x : F32} (h0 : 0 ≤ f32Scaled x)
    (h100 : f32Scaled x ≤ 100 * 2 ^ 149) :
    BelowOverflow (f32Scaled (u32ToF32 cfg.maxc) * f32Scaled x) f32Unit := by
  have hmaxc : cfg.maxc.toNat ≤ 0xFFFF := htop
  obtain ⟨-, hval⟩ := conversionIsExactUpTo2Pow24 cfg.maxc (by omega)
  have hle : f32Scaled (u32ToF32 cfg.maxc) * f32Scaled x ≤ (0xFFFF * 2 ^ 149) * (100 * 2 ^ 149) :=
    mul_le_mul (by omega) h100 h0 (by norm_num)
  rw [BelowOverflow, unit_eq, abs_of_nonneg (mul_nonneg (by omega) h0), abs_of_nonneg (by norm_num)]
  omega

/-- What `MAXC` times a number between 0 and 100 gives is within reach of the division. -/
theorem belowOverflow_quotient {y : F32} {n : Nat} (hn : n ≤ 0xFFFF * 100) (h0 : 0 ≤ f32Scaled y)
    (hy : f32Scaled y ≤ (n * 2 ^ 149 : Int)) : BelowOverflow (f32Scaled y * f32Unit) (f32Scaled f32Hundred) := by
  rw [BelowOverflow, hundred_value.2, unit_eq, abs_of_nonneg (by omega), abs_of_nonneg (by norm_num)]
  omega

/-- The distance of an output between 0 and 100 from 100 is such a number. -/
theorem fsub_hundred_mem {out : F32} (hout : f32IsFinite out = true) (h0 : 0 ≤ f32Scaled out)
    (h100 : f32Scaled out ≤ 100 * 2 ^ 149) :
    f32IsFinite (fsub f32Hundred out) = true ∧ 0 ≤ f32Scaled (fsub f32Hundred out) ∧
    f32Scaled (fsub f32Hundred out) ≤ 100 * 2 ^ 149 := by
  obtain ⟨hhundred, hval⟩ := hundred_value
  have hsub := fsub_between f32Hundred out f32Zero f32Hundred hhundred hout zero_value.1 hhundred
    (by rw [zero_value.2]; omega) (by omega)
  rwa [zero_value.2, hval] at hsub

/-- Settles O50: the difference turns the order round, and the product, the quotient and the rounding keep it. -/
theorem dutyMappingDecreases : Obligations.DutyMappingDecreases := by
  intro c x y htop hx hy hx0 hxy hy100
  have hmaxc : c.maxc.toNat ≤ 0xFFFF := htop
  obtain ⟨hhundred, hval⟩ := hundred_value
  obtain ⟨hm, hmval⟩ := conversionIsExactUpTo2Pow24 c.maxc (by omega)
  obtain ⟨hdx, hdx0, hdx100⟩ := fsub_hundred_mem hx hx0 (hxy.trans hy100)
  obtain ⟨hdy, hdy0, hdy100⟩ := fsub_hundred_mem hy (hx0.trans hxy) hy100
  have hdiff : f32Scaled (fsub f32Hundred y) ≤ f32Scaled (fsub f32Hundred x) :=
    fsub_antitone hhundred hx hy hxy (by omega) (by
      rw [BelowOverflow, hval, abs_of_nonneg (by omega)]; norm_num; omega)
  obtain ⟨hpx, hpx0, hpxle⟩ := fmul_maxc_between htop (j := 0) (k := 100) le_rfl hdx (by omega) (by omega)
  obtain ⟨hpy, hpy0, hpyle⟩ := fmul_maxc_between htop (j := 0) (k := 100) le_rfl hdy (by omega) (by omega)
  have hprod : f32Scaled (fmul (u32ToF32 c.maxc) (fsub f32Hundred y)) ≤
      f32Scaled (fmul (u32ToF32 c.maxc) (fsub f32Hundred x)) :=
    fmul_monotone hm hdy hdx (by omega) hdy0 hdiff (belowOverflow_product htop hdx0 hdx100)
  obtain ⟨hqx, -, -⟩ := fdiv_hundred_between (j := 0) (k := c.maxc.toNat) (by omega) hpx (by omega) hpxle
  obtain ⟨hqy, hqy0, -⟩ := fdiv_hundred_between (j := 0) (k := c.maxc.toNat) (by omega) hpy (by omega) hpyle
  have hquot := fdiv_monotone hpy hpx hhundred (by omega) hprod (by omega)
    (belowOverflow_quotient (by omega) (by omega) hpxle)
  exact roundHaz_monotone hqy hqx (by omega) hquot

end Sys2Proof.Machine

end

/-!
# Proofs: command (44_command.md)

`RX` fills the slot whatever the core is doing (R160). `PARSE` with a full slot on a live Idle core is the timed run of
the byte's class (R161), and the six classes differ in the direction they write only. `DONE` ends the run once `ELAPSED`
has reached `DURATION` (R171). No other operation writes `RUNNING` (R172, R175), and none acts on a byte received during
a run (R173). The length of a run is an induction over its passes (R174): the invariant `MidRun` holds a live Running
core with the samples it has counted and its phase.
-/

section

namespace Sys2Proof.Machine

open Sys2Proof

/-! ### `RX` (R160) -/

theorem decodeEvent_make_rx (x byte : Byte) : decodeEvent (EventWord.make 0x5#4 (x ++ byte)) = .rx byte := by
  have hlow : (x ++ byte).setWidth 8 = byte := BitVec.setWidth_append_eq_right
  simp [decodeEvent, hlow]

theorem exec_rx_of_live {s : State} (hlive : s.halted = false) (b : Byte) : exec (.rx b) s = .next (fillSlot b s) := by
  rw [exec, execRx, whenLive_of_live hlive]

theorem exec_rx_of_halted {s : State} (hhalted : s.halted = true) (b : Byte) : exec (.rx b) s = .next s := by
  rw [exec, execRx, whenLive_of_halted hhalted]

/-- Settles O5: the operand's low byte is the one stored, in both registers of the slot. -/
theorem rxFillsTheSlot : Obligations.RxFillsTheSlot :=
  ⟨decodeEvent_make_rx, fun _ b hlive => exec_rx_of_live hlive b, fun _ b hhalted => exec_rx_of_halted hhalted b⟩

/-- Settles O29: filling the slot overwrites both of its registers. -/
theorem lastWriterWinsInTheSlot : Obligations.LastWriterWinsInTheSlot := fun s a b hlive =>
  ⟨fillSlot a s, fillSlot b s, exec_rx_of_live hlive a, exec_rx_of_live (s := fillSlot a s) hlive b,
    exec_rx_of_live hlive b, fillSlot_pending s b⟩

/-! ### The start of a run (R161, R163 to R170) -/

/-- The timed run of R161, with the direction `d`: what every class starts on a live Idle core. -/
def timedRun (d : Dir) (s : State) : State :=
  { s with
    dir := d
    motor0 := { s.motor0 with setpoint := s.cfg.rpsOn.bits }
    motor1 := { s.motor1 with setpoint := s.cfg.rpsOn.bits }
    elapsed := 0#32
    running := true
    pending := none
    cmdReady := false }

theorem startRun_eq_timedRun (cls : CommandClass) (s : State) :
    startRun cls s = timedRun ((directionOf s.cfg.dirtab cls).getD s.dir) s := by
  cases cls <;> rfl

/-- A class by itself is acted on by a live Idle core. -/
theorem runClass_of_idle {s : State} (hlive : s.halted = false) (hidle : s.running = false) (cls : CommandClass) :
    runClass cls s = .next (timedRun ((directionOf s.cfg.dirtab cls).getD s.dir) s) := by
  rw [runClass_eq, whenIdle_of_idle hlive hidle, startRun_eq_timedRun]

/-- A class by itself does nothing on a halted or Running core (log entry 17). -/
theorem runClass_of_busy {s : State} (hbusy : s.halted = true ∨ s.running = true) (cls : CommandClass) :
    runClass cls s = .next s := by
  rw [runClass_eq]
  rcases hbusy with hhalted | hrun
  · exact whenLive_of_halted hhalted _
  · exact whenIdle_of_running hrun _

/-- R86: a code that is none of the five recognised ones is `UNKNOWN`. -/
theorem classify_of_not_mem {code : Code} (h : code ∉ [0x77#7, 0x73#7, 0x61#7, 0x64#7, 0x78#7]) :
    classify code = .unknown :=
  by_contra fun hne => h (mem_recognised_of_classify hne)

/-- Settles O9: the operation of each class is `runClass` of it, and the table has an entry for all but `UNKNOWN`. -/
theorem commandClassesStartTheTimedRun : Obligations.CommandClassesStartTheTimedRun := by
  refine ⟨⟨rfl, rfl, rfl, rfl, rfl, fun code hcode => ?_⟩, ⟨rfl, rfl, rfl, rfl, rfl⟩, fun s hlive hidle => ?_,
    fun s hbusy => ?_⟩
  · rw [decodeCommand, command_code, classify_of_not_mem hcode]
    rfl
  · have hrun := runClass_of_idle hlive hidle
    exact ⟨hrun .forward, hrun .backward, hrun .left, hrun .right, hrun .stop, fun _ => hrun .unknown⟩
  · have hkeep := runClass_of_busy hbusy
    exact ⟨hkeep .forward, hkeep .backward, hkeep .left, hkeep .right, hkeep .stop, fun _ => hkeep .unknown⟩

/-! ### `PARSE` (R161, R162) -/

/-- `PARSE` does nothing unless a live Idle core has a byte in its slot. -/
theorem exec_parse_of_not_ready {s : State} (h : s.halted = true ∨ s.cmdReady = false ∨ s.running = true) :
    exec .parse s = .next s := by
  cases hhalted : s.halted
  · have hno : (s.cmdReady && !s.running) = false := by
      rcases h with h | h | h
      · exact absurd (hhalted.symm.trans h) nofun
      · rw [h, Bool.false_and]
      · rw [h, Bool.not_true, Bool.and_false]
    rw [exec, execParse, whenLive_of_live hhalted, hno]
    rfl
  · rw [exec, execParse, whenLive_of_halted hhalted]

/-- `PARSE` with a byte pending on a live Idle core. -/
theorem exec_parse_of_pending {s : State} {b : Byte} (hlive : s.halted = false) (hidle : s.running = false)
    (hready : s.cmdReady = true) (hslot : s.pending = some b) :
    exec .parse s =
      .next (timedRun ((directionOf s.cfg.dirtab (classify (commandCode s.cfg b))).getD s.dir) s) :=
  (execParse_of_pending hlive hidle hready hslot).trans (by rw [startRun_eq_timedRun])

/-- The direction written for a code, by the table of R86 and R170. -/
theorem directionOf_classify (t : DirTab) (code : Code) (d : Dir) :
    (directionOf t (classify code)).getD d =
      if code = 0x77#7 then t.forward
      else if code = 0x73#7 then t.backward
      else if code = 0x61#7 then t.left
      else if code = 0x64#7 then t.right
      else if code = 0x78#7 then t.stop
      else d := by
  unfold classify
  split_ifs <;> rfl

/-- The advance of `PHASE` after an operation that leaves `PHASE` alone (R190). -/
theorem mapNext_advancePhase {r : Result} {p : BitVec 3} (h : ∀ t, r = .next t → t.phase = p) :
    r.mapNext advancePhase = r.mapNext fun t => { t with phase := BitVec.ofNat 3 ((p.toNat + 1) % 5) } := by
  cases r with
  | next t => rw [Result.mapNext, Result.mapNext, advancePhase, h t rfl]
  | fault x => rfl
  | refused x => rfl

theorem exec_parse_phase {s t : State} (h : exec .parse s = .next t) : t.phase = s.phase := by
  rcases execParse_next h with ⟨-, rfl⟩ | ⟨-, -, -, b, -, rfl⟩
  · rfl
  · exact startRun_phase _ _

/-- The `STEP` of phase 3 on a live core. -/
theorem exec_step_parse_of_live {s : State} (hlive : s.halted = false) (hphase : s.phase = 3#3) :
    exec .step s = Result.mapNext (exec .parse s) fun t => { t with phase := 4#3 } := by
  have hrun : runPhase s = exec .parse s := by simp only [runPhase, hphase, exec]
  rw [exec_step_of_live hlive, hrun, mapNext_advancePhase (p := 3#3) fun t ht => (exec_parse_phase ht).trans hphase]
  rfl

/-- The mask `0x7F` leaves the seven low bits (30_encoding.md R85). -/
theorem setWidth_and_mask (b : Byte) : (b &&& 0x7F#8).setWidth 7 = b.setWidth 7 := by
  rw [and_mask_eq_code, command_code]

/-- Settles O8: the two cases of `PARSE`, the timed run with its direction written out by the code. -/
theorem parseStartsACommand : Obligations.ParseStartsACommand := by
  refine ⟨fun _ => exec_parse_of_not_ready, fun _ => exec_step_parse_of_live, fun s b hlive hready hidle hslot => ?_,
    fun b => ?_⟩
  · rw [exec_parse_of_pending hlive hidle hready hslot, directionOf_classify]
    rfl
  · rw [setWidth_and_mask, BitVec.toNat_setWidth]

/-- Settles O28: with the mask both bytes have the same code, and the slot they differ in is emptied. -/
theorem highBitOfACommandIsIgnored : Obligations.HighBitOfACommandIsIgnored := by
  intro s b hmask hlive hready hidle
  have hcode : commandCode s.cfg (b ||| 0x80#8) = commandCode s.cfg b := by
    rw [commandCode, commandCode, hmask, setWidth_and_mask, setWidth_and_mask, BitVec.setWidth_or]
    exact BitVec.or_zero
  refine ⟨_, exec_parse_of_pending (s := { s with pending := some b }) hlive hidle hready rfl, ?_, rfl⟩
  rw [exec_parse_of_pending (s := { s with pending := some (b ||| 0x80#8) }) hlive hidle hready rfl, hcode]
  rfl

/-- The operation a command byte decodes to is the run of its class. -/
theorem exec_decodeCommand (b : Byte) (s : State) : exec (decodeCommand b) s = runClass (classify (b.setWidth 7)) s := by
  rw [decodeCommand]
  cases classify (b.setWidth 7) <;> rfl

/-- With the mask `0x7F`, `PARSE` of a pending byte is the operation the byte decodes to. -/
theorem exec_parse_eq_decodeCommand {s : State} {b : Byte} (hmask : s.cfg.cmdMask = 0x7F#8) (hlive : s.halted = false)
    (hidle : s.running = false) (hready : s.cmdReady = true) (hslot : s.pending = some b) :
    exec .parse s = exec (decodeCommand b) s := by
  rw [exec_parse_of_pending hlive hidle hready hslot, exec_decodeCommand, runClass_of_idle hlive hidle, commandCode,
    hmask, setWidth_and_mask]

/-- Settles O21: the placed byte meets the `STEP` of phase 3 on a live Idle core with the byte in its slot. -/
theorem commandByteRunsItsClass : Obligations.CommandByteRunsItsClass := by
  intro s b hcfg hmask
  have hplace : s.withFetchWord 8 b.toNat = presentCommand b s := by
    rw [State.withFetchWord, if_pos le_rfl, BitVec.ofNat_toNat, BitVec.setWidth_eq]
  rw [hplace, step_of_stepWord (s := presentCommand b s) (rest := s.port) hcfg rfl,
    exec_step_parse_of_live (s := beginStep (presentCommand b s)) rfl rfl,
    exec_parse_eq_decodeCommand (s := beginStep (presentCommand b s)) (b := b) hmask rfl rfl rfl rfl]
  rfl

/-! ### `DONE` (R171) -/

theorem exec_done_of_live {s : State} (hlive : s.halted = false) : exec .done s = .next (donePhase s.cfg.pi s) := by
  rw [exec, execDone, whenLive_of_live hlive]

theorem exec_done_of_halted {s : State} (hhalted : s.halted = true) : exec .done s = .next s := by
  rw [exec, execDone, whenLive_of_halted hhalted]

theorem donePhase_of_idle (c : Collaborator) {s : State} (hidle : s.running = false) : donePhase c s = s := by
  rw [donePhase, hidle]
  rfl

/-- A command whose time is up is ended. -/
theorem donePhase_of_le (c : Collaborator) {s : State} (hrun : s.running = true)
    (hup : s.cfg.duration.toNat ≤ s.elapsed.toNat) :
    donePhase c s = emptySlot (stopRunning (s.updMotors (MotorRegs.shutOff c s.cfg))) := by
  have hle : s.cfg.duration ≤ s.elapsed := hup
  rw [donePhase, hrun, decide_eq_true hle]
  rfl

/-- The `STEP` of phase 4 on a live core. -/
theorem exec_step_done_of_live {s : State} (hlive : s.halted = false) (hphase : s.phase = 4#3) :
    exec .step s = Result.mapNext (exec .done s) fun t => { t with phase := 0#3 } := by
  have hrun : runPhase s = exec .done s := by simp only [runPhase, hphase, exec]
  have hkeep : ∀ t, exec .done s = .next t → t.phase = 4#3 := by
    intro t ht
    rw [exec_done_of_live hlive] at ht
    injection ht with ht
    rw [← ht, donePhase_phase, hphase]
  rw [exec_step_of_live hlive, hrun, mapNext_advancePhase hkeep]
  rfl

/-- Settles O10: the guard of `DONE`, case by case, and the end of a command written out. -/
theorem doneEndsACommand : Obligations.DoneEndsACommand := by
  refine ⟨fun _ => exec_step_done_of_live, fun s hkeep => ?_, fun s hlive hrun hup => ?_⟩
  · cases hhalted : s.halted
    · rw [exec_done_of_live hhalted]
      rcases hkeep with hh | hidle | hlt
      · exact absurd (hhalted.symm.trans hh) nofun
      · rw [donePhase_of_idle _ hidle]
      · rw [donePhase_of_lt _ (BitVec.lt_def.2 hlt)]
    · exact exec_done_of_halted hhalted
  · rw [exec_done_of_live hlive, donePhase_of_le _ hrun hup]
    rfl

/-! ### The two transitions of `RUNNING` (R172, R175) -/

/-- Of the phases only `PARSE` starts a command (30_encoding.md R84). -/
theorem phase_eq_three_of_startsCommand : ∀ phase : BitVec 3,
    ((phaseInstr phase).getD .step).startsCommand = true → (phaseInstr phase).getD .step = .parse ∧ phase = 3#3 := by
  decide

/-- Of the phases only phase 4 is `DONE` (30_encoding.md R84). -/
theorem phase_eq_four_of_done : ∀ phase : BitVec 3, (phaseInstr phase).getD .step = .done → phase = 4#3 := by decide

/-- No event word decodes to an operation that starts a command: on the port it is the `STEP` of phase 3. -/
theorem decodeEvent_step_of_startsCommand {ev : EventWord} {s : State}
    (h : (operationOf (decodeEvent ev) s).startsCommand = true) :
    operationOf (decodeEvent ev) s = .parse ∧ decodeEvent ev = .step ∧ s.phase = 3#3 := by
  unfold operationOf at h ⊢
  split at h
  next hstep =>
    obtain ⟨hparse, hphase⟩ := phase_eq_three_of_startsCommand s.phase h
    rw [if_pos hstep]
    exact ⟨hparse, hstep, hphase⟩
  next =>
    unfold decodeEvent at h
    split at h <;> cases h

/-- No event word decodes to `DONE`: on the port it is the `STEP` of phase 4. -/
theorem decodeEvent_step_of_operationOf_done {ev : EventWord} {s : State}
    (h : operationOf (decodeEvent ev) s = .done) : decodeEvent ev = .step ∧ s.phase = 4#3 := by
  unfold operationOf at h
  split at h
  next hstep => exact ⟨hstep, phase_eq_four_of_done s.phase h⟩
  next =>
    unfold decodeEvent at h
    split at h <;> cases h

/-- A `PARSE` that starts a run found the slot full, and leaves no sample counted. -/
theorem exec_parse_rises {s u : State} (h : exec .parse s = .next u) (hidle : s.running = false)
    (hrun : u.running = true) : s.cmdReady = true ∧ u.elapsed = 0#32 := by
  rcases execParse_next h with ⟨-, rfl⟩ | ⟨-, hready, -, b, -, rfl⟩
  · exact absurd (hidle.symm.trans hrun) nofun
  · exact ⟨hready, startRun_elapsed _ _⟩

/-- A `DONE` that ends a run found its time up. -/
theorem exec_done_falls {s u : State} (h : exec .done s = .next u) (hrun : s.running = true)
    (hidle : u.running = false) : s.cfg.duration.toNat ≤ s.elapsed.toNat := by
  rcases execDone_next h with ⟨-, rfl⟩ | ⟨-, rfl⟩
  · exact absurd (hrun.symm.trans hidle) nofun
  · rcases donePhase_cases s.cfg.pi s with ⟨-, e⟩ | ⟨-, hle, -⟩
    · rw [e, hrun] at hidle
      exact absurd hidle nofun
    · exact hle

/-- Settles O38: by the writers of `RUNNING` (R42) a rise is the `PARSE` of phase 3 and a fall the `DONE` of phase 4. -/
theorem runningChangesAtItsTwoTransitions : Obligations.RunningChangesAtItsTwoTransitions := by
  intro s t h
  obtain ⟨-, hexec⟩ := step_next h
  by_cases hi : decodeEvent (fetchWord s) = .reset
  · rw [hi] at hexec
    rw [execReset_next hexec]
    exact ⟨nofun, fun _ _ => .inl hi⟩
  rcases exec_operationOf hexec hi with ⟨-, rfl⟩ | ⟨hlive, u, hu, hstep, hreset, ht⟩
  · exact ⟨fun hidle hrun => absurd (hidle.symm.trans hrun) nofun,
      fun hrun hidle => absurd (hrun.symm.trans hidle) nofun⟩
  have hwriter := (effect_of_exec hlive hu hstep hreset).running_writer
  obtain ⟨hrunning, helapsed⟩ : t.running = u.running ∧ t.elapsed = u.elapsed := by
    rcases ht with ⟨-, rfl⟩ | ⟨-, rfl⟩ <;> exact ⟨rfl, rfl⟩
  rw [hrunning, helapsed]
  constructor
  · intro hidle hrun
    obtain ⟨hparse, hword, hphase⟩ := decodeEvent_step_of_startsCommand (set_of_rises hwriter hidle hrun)
    rw [hparse] at hu
    obtain ⟨hready, hzero⟩ := exec_parse_rises hu hidle hrun
    exact ⟨hword, hphase, hready, hlive, hzero⟩
  · intro hrun hidle
    have hdone := clear_of_falls hwriter hrun hidle
    obtain ⟨hword, hphase⟩ := decodeEvent_step_of_operationOf_done hdone
    rw [hdone] at hu
    have hup := exec_done_falls hu hrun hidle
    exact .inr ⟨hword, hphase, hup, hlive⟩

/-! ### A byte received during a run (R173) -/

/-- On a Running core no operation writes `DIR`; while the run goes on only `RX` writes the
slot, and its end empties it. -/
theorem Effect.during_run {op : Instr} {s u : State} (h : Effect op s u) (hrun : s.running = true) :
    u.dir = s.dir ∧
    (u.running = true → u.motor0.setpoint = s.motor0.setpoint ∧ u.motor1.setpoint = s.motor1.setpoint ∧
      ((u.pending = s.pending ∧ u.cmdReady = s.cmdReady) ∨
        ∃ b, op = .rx b ∧ u.pending = some b ∧ u.cmdReady = true)) ∧
    (u.running = false → u.pending = none ∧ u.cmdReady = false) := by
  cases h with
  | receive b =>
    exact ⟨rfl, fun _ => ⟨rfl, rfl, .inr ⟨b, rfl, rfl, rfl⟩⟩, fun hidle => absurd (hrun.symm.trans hidle) nofun⟩
  | complete _ => exact ⟨rfl, nofun, fun _ => ⟨rfl, rfl⟩⟩
  | parse _ hidle _ => exact absurd (hrun.symm.trans hidle) nofun
  | command _ _ hidle _ => exact absurd (hrun.symm.trans hidle) nofun
  | _ => simp [hrun]

/-- `RX` is the operation of no phase, so it runs only where its own word is on the port. -/
theorem operationOf_eq_rx_iff {i : Instr} {s : State} {b : Byte} : operationOf i s = .rx b ↔ i = .rx b := by
  unfold operationOf
  split
  next hstep =>
    refine iff_of_false (fun h => ?_) (by rw [hstep]; exact nofun)
    unfold phaseInstr at h
    split at h <;> cases h
  next => exact Iff.rfl

/-- Settles O33: by the effects on a Running core, with `PARSE` and `DONE` after the byte worked out. -/
theorem collisionByteIsNeverActedOn : Obligations.CollisionByteIsNeverActedOn := by
  refine ⟨fun s b hlive hrun => ?_, fun i s t hrun hi hexec => ?_, fun s b hlive hrun hup => ?_⟩
  · exact ⟨_, exec_rx_of_live hlive b, rfl, hrun, exec_parse_of_not_ready (.inr (.inr hrun))⟩
  · obtain ⟨u, hu, ht⟩ := exec_effect hexec hi
    obtain ⟨hdir, hgoes, hends⟩ := hu.during_run hrun
    simp only [operationOf_eq_rx_iff] at hgoes
    rcases ht with rfl | ⟨-, rfl⟩ <;> exact ⟨hdir, hgoes, hends⟩
  · have hdone (u : State) (hlive : u.halted = false) (hrun : u.running = true)
        (hup : u.cfg.duration.toNat ≤ u.elapsed.toNat) :=
      (exec_done_of_live hlive).trans (congrArg _ (donePhase_of_le _ hrun hup))
    exact ⟨_, _, exec_rx_of_live hlive b, hdone (fillSlot b s) hlive hrun hup, hdone s hlive hrun hup, rfl, rfl, rfl, rfl,
      exec_parse_of_not_ready (.inr (.inl rfl))⟩

/-! ### The length of a run (R174) -/

/-- A live Running core under the configuration `cfg`, at the phase `p` with `n` samples counted. -/
structure MidRun (cfg : Cfg) (n : Nat) (p : BitVec 3) (s : State) : Prop where
  cfg_eq : s.cfg = cfg
  live : s.halted = false
  running : s.running = true
  phase_eq : s.phase = p
  elapsed_eq : s.elapsed.toNat = n

section

variable {cfg : Cfg} {n : Nat} {p : BitVec 3} {s : State} {rest : List EventWord}

theorem MidRun.at_beginStep (h : MidRun cfg n p s) : MidRun cfg n p (beginStep s) :=
  ⟨h.cfg_eq, h.live, h.running, h.phase_eq, h.elapsed_eq⟩

/-- The step of a `SAMPLE` counts one more (R140). -/
theorem MidRun.step_sample (h : MidRun cfg n p s) (hcfg : cfg.wellFormed = true)
    (hport : s.port = sampleWord :: rest) (hn : n + 1 < 2 ^ 32) :
    ∃ u, step s = .next u ∧ MidRun cfg (n + 1) p u ∧ u.tickReady = true ∧ u.port = rest := by
  have hstep : step s = exec .sample (beginStep s) := by
    rw [step_of_wellFormed (h.cfg_eq ▸ hcfg), fetchWord_of_cons hport, sampleWord, decodeEvent_make_sample]
  have helapsed : (s.elapsed + 1#32).toNat = n + 1 := by
    rw [BitVec.toNat_add, h.elapsed_eq]
    exact Nat.mod_eq_of_lt hn
  refine ⟨_, hstep.trans (exec_sample_of_running h.at_beginStep.live h.at_beginStep.running), ?_, rfl, ?_⟩
  · exact ⟨h.cfg_eq, h.live, h.running, h.phase_eq, helapsed⟩
  · rw [beginStep_port, hport, List.tail_cons]

/-- The step of a `STEP` word is the answer of the phase operation with `PHASE` advanced (R190). -/
theorem MidRun.step_phase {i : Instr} {q : BitVec 3} {u : State} (h : MidRun cfg n p s)
    (hcfg : cfg.wellFormed = true) (hport : s.port = stepWord :: rest)
    (hphase : exec .step (beginStep s) = Result.mapNext (exec i (beginStep s)) fun t => { t with phase := q })
    (hexec : exec i (beginStep s) = .next u) : step s = .next { u with phase := q } := by
  rw [step_of_stepWord (h.cfg_eq ▸ hcfg) hport, hphase, hexec]
  rfl

/-- The two `STEP` of the estimator keep a tick that is pending. -/
theorem MidRun.run_rps (h : MidRun cfg n 0#3 s) (hcfg : cfg.wellFormed = true)
    (hport : s.port = stepWord :: stepWord :: rest) :
    ∃ u : State, Host.Core.run Sys2Proof.core 2 s = .next u ∧ MidRun cfg n 2#3 u ∧ u.tickReady = s.tickReady ∧
      u.port = rest := by
  have hb := h.at_beginStep
  have hfirst := h.step_phase hcfg hport (exec_step_rps0 hb.live hb.phase_eq) (exec_rps0_of_live hb.live)
  generalize hu : ({ rpsUpdate .m0 (beginStep s) with phase := 1#3 } : State) = u at hfirst
  have hu1 : MidRun cfg n 1#3 u := by
    subst hu
    exact ⟨h.cfg_eq, h.live, h.running, rfl, h.elapsed_eq⟩
  have huport : u.port = stepWord :: rest := by
    subst hu
    exact congrArg List.tail hport
  have hsecond := hu1.step_phase hcfg huport (exec_step_rps1 hu1.at_beginStep.live hu1.phase_eq)
    (exec_rps1_of_live hu1.at_beginStep.live)
  refine ⟨_, (run_succ hfirst 1).trans (run_succ hsecond 0), ?_, ?_, congrArg List.tail huport⟩
  · exact ⟨hu1.cfg_eq, hu1.live, hu1.running, rfl, hu1.elapsed_eq⟩
  · subst hu
    rfl

/-- With a tick pending the `STEP` of `PI` clears the PWM counter (R145, R148). -/
theorem MidRun.step_pi (h : MidRun cfg n 2#3 s) (hcfg : cfg.wellFormed = true) (htick : s.tickReady = true)
    (hport : s.port = stepWord :: rest) :
    ∃ u, step s = .next u ∧ MidRun cfg n 3#3 u ∧ u.emitted = [.pwmClr] ∧ u.port = rest := by
  have hb := h.at_beginStep
  refine ⟨_, h.step_phase hcfg hport (exec_step_pi hb.live hb.phase_eq) (exec_pi_of_running hb.live htick hb.running),
    ?_, rfl, congrArg List.tail hport⟩
  exact ⟨h.cfg_eq, h.live, h.running, rfl, h.elapsed_eq⟩

/-- A `SAMPLE` and the pass after it, up to its `PI`. -/
theorem MidRun.run_to_parse (h : MidRun cfg n 0#3 s) (hcfg : cfg.wellFormed = true)
    (hport : s.port = sampleWord :: passEvents ++ rest) (hn : n + 1 < 2 ^ 32) :
    ∃ v : State, Host.Core.run Sys2Proof.core 4 s = .next v ∧ MidRun cfg (n + 1) 3#3 v ∧ v.emitted = [.pwmClr] ∧
      v.port = stepWord :: stepWord :: rest := by
  obtain ⟨t, hsample, ht, htick, htport⟩ := h.step_sample hcfg hport hn
  obtain ⟨u, hrps, hu, hutick, huport⟩ := ht.run_rps hcfg htport
  obtain ⟨v, hpi, hv, hemitted, hvport⟩ := hu.step_pi hcfg (hutick.trans htick) huport
  refine ⟨v, ?_, hv, hemitted, hvport⟩
  calc Host.Core.run Sys2Proof.core 4 s
    _ = Host.Core.run Sys2Proof.core 3 t := run_succ hsample 3
    _ = Host.Core.run Sys2Proof.core 1 u := run_add 2 1 hrps
    _ = .next v := run_succ hpi 0

/-- The rest of the pass: `PARSE` does nothing on a Running core, and `DONE` works on the motors `PI` left. -/
theorem MidRun.run_to_done (h : MidRun cfg n 3#3 s) (hcfg : cfg.wellFormed = true)
    (hport : s.port = stepWord :: stepWord :: rest) :
    ∃ u : State, MidRun cfg n 4#3 u ∧ u.motor0 = s.motor0 ∧ u.motor1 = s.motor1 ∧ u.port = rest ∧
      Host.Core.run Sys2Proof.core 2 s = .next { donePhase cfg.pi u with phase := 0#3 } := by
  have hb := h.at_beginStep
  have hparse := h.step_phase hcfg hport (exec_step_parse_of_live hb.live hb.phase_eq)
    (exec_parse_of_not_ready (.inr (.inr hb.running)))
  generalize hu : ({ beginStep s with phase := 4#3 } : State) = u at hparse
  have hu4 : MidRun cfg n 4#3 u := by
    subst hu
    exact ⟨h.cfg_eq, h.live, h.running, rfl, h.elapsed_eq⟩
  have huport : u.port = stepWord :: rest := by
    subst hu
    exact congrArg List.tail hport
  have hb4 := hu4.at_beginStep
  have hdone := hu4.step_phase hcfg huport (exec_step_done_of_live hb4.live hb4.phase_eq) (exec_done_of_live hb4.live)
  refine ⟨beginStep u, hb4, by rw [← hu]; rfl, by rw [← hu]; rfl, congrArg List.tail huport, ?_⟩
  rw [← hb4.cfg_eq]
  exact (run_succ hparse 1).trans (run_succ hdone 0)

/-- A `SAMPLE` and a pass below the duration: the run goes on (R174). -/
theorem MidRun.run_pass (h : MidRun cfg n 0#3 s) (hcfg : cfg.wellFormed = true)
    (hport : s.port = sampleWord :: passEvents ++ rest) (hn : n + 1 < cfg.duration.toNat) :
    ∃ u : State, Host.Core.run Sys2Proof.core 6 s = .next u ∧ MidRun cfg (n + 1) 0#3 u ∧ u.port = rest := by
  obtain ⟨v, hrunv, hv, -, hvport⟩ := h.run_to_parse hcfg hport (hn.trans cfg.duration.isLt)
  obtain ⟨u, hu, -, -, huport, hrunu⟩ := hv.run_to_done hcfg hvport
  have hlt : u.elapsed < u.cfg.duration := by rwa [BitVec.lt_def, hu.elapsed_eq, hu.cfg_eq]
  rw [donePhase_of_lt _ hlt] at hrunu
  exact ⟨_, (run_add 4 2 hrunv).trans hrunu, ⟨hu.cfg_eq, hu.live, hu.running, rfl, hu.elapsed_eq⟩, huport⟩

/-- As many of them as stay below the duration. -/
theorem MidRun.run_passes (k : Nat) (h : MidRun cfg n 0#3 s) (hcfg : cfg.wellFormed = true)
    (hport : s.port = (List.replicate k (sampleWord :: passEvents)).flatten ++ rest)
    (hk : n + k < cfg.duration.toNat) :
    ∃ u : State, Host.Core.run Sys2Proof.core (6 * k) s = .next u ∧ MidRun cfg (n + k) 0#3 u ∧ u.port = rest := by
  induction k generalizing s n with
  | zero => exact ⟨s, rfl, h, hport⟩
  | succ k ih =>
    rw [List.replicate_succ, List.flatten_cons, List.append_assoc] at hport
    obtain ⟨u, hrunu, hu, huport⟩ := h.run_pass hcfg hport (by omega)
    obtain ⟨v, hrunv, hv, hvport⟩ := ih hu huport (by omega)
    rw [Nat.add_right_comm] at hv
    refine ⟨v, ?_, hv, hvport⟩
    rw [Nat.mul_succ, Nat.add_comm, run_add 6 (6 * k) hrunu, hrunv]

/-- The `SAMPLE` that reaches the duration and its pass: `DONE` ends the run (R171). -/
theorem MidRun.run_last_pass (h : MidRun cfg n 0#3 s) (hcfg : cfg.wellFormed = true)
    (hport : s.port = sampleWord :: passEvents ++ rest) (hn : n + 1 = cfg.duration.toNat) :
    ∃ u v : State, Host.Core.run Sys2Proof.core 4 s = .next v ∧ v.emitted = [.pwmClr] ∧
      Host.Core.run Sys2Proof.core 6 s = .next u ∧ u.port = rest ∧
      u.running = false ∧ u.elapsed = cfg.duration ∧ u.phase = 0#3 ∧
      u.motor0 = v.motor0.shutOff cfg.pi cfg ∧ u.motor1 = v.motor1.shutOff cfg.pi cfg ∧
      u.pending = none ∧ u.cmdReady = false := by
  obtain ⟨v, hrunv, hv, hemitted, hvport⟩ := h.run_to_parse hcfg hport (hn ▸ cfg.duration.isLt)
  obtain ⟨u, hu, hmotor0, hmotor1, huport, hrunu⟩ := hv.run_to_done hcfg hvport
  have hup : u.cfg.duration.toNat ≤ u.elapsed.toNat := by rw [hu.elapsed_eq, hu.cfg_eq, hn]
  rw [donePhase_of_le _ hu.running hup] at hrunu
  refine ⟨_, v, hrunv, hemitted, (run_add 4 2 hrunv).trans hrunu, huport, rfl,
    BitVec.eq_of_toNat_eq (hu.elapsed_eq.trans hn), rfl, ?_, ?_, rfl, rfl⟩
  · rw [← hmotor0, ← hu.cfg_eq]
    rfl
  · rw [← hmotor1, ← hu.cfg_eq]
    rfl

end

/-- Settles O56: every pass but the last leaves the run below its duration, and the last one ends it. -/
theorem commandRunsForItsDuration : Obligations.CommandRunsForItsDuration := by
  intro s n rest hcfg hlive hrun hphase hbelow hport
  have hs : MidRun s.cfg s.elapsed.toNat 0#3 s := ⟨rfl, hlive, hrun, hphase, rfl⟩
  constructor
  · intro hn
    obtain ⟨u, hrunu, hu, huport⟩ := hs.run_passes n hcfg hport hn
    exact ⟨u, hrunu, huport, hu.running, hu.elapsed_eq, hu.phase_eq⟩
  · intro hn
    obtain ⟨k, rfl⟩ : ∃ k, n = k + 1 := ⟨n - 1, by omega⟩
    rw [List.replicate_succ', List.flatten_concat, List.append_assoc] at hport
    obtain ⟨t, hrunt, ht, htport⟩ := hs.run_passes k hcfg hport (by omega)
    obtain ⟨u, v, hrunv, hemitted, hrunu, huport, hidle, helapsed, huphase, hmotor0, hmotor1, hslot⟩ :=
      ht.run_last_pass hcfg htport (by omega)
    rw [Nat.add_sub_cancel]
    refine ⟨u, v, (run_add _ 4 hrunt).trans hrunv, hemitted, (run_add _ 6 hrunt).trans hrunu, huport, hidle, helapsed,
      huphase, ?_⟩
    rw [hmotor0, hmotor1]
    exact ⟨rfl, rfl, rfl, rfl, rfl, rfl, hslot⟩

end Sys2Proof.Machine

end

/-!
# Proofs: scheduler (45_scheduler.md)

`STEP` dispatches on `PHASE` and advances it modulo 5 (R190); which phase operation a live core runs is cited from the
component it belongs to. The other operations of the scheduler are `IDLE` (R193), `RESET` (R194) and the reserved codes
(R195). The freeze of R196 is one lemma over all operations, from which the step of a halted core follows (R213, R214).
-/

section

namespace Sys2Proof.Machine

open Sys2Proof

/-! ### `IDLE` (R193) -/

theorem decodeEvent_make_idle (d : Half) : decodeEvent (EventWord.make 0x0#4 d) = .idle := by
  simp [decodeEvent]

theorem exec_idle (s : State) : exec .idle s = .next s := rfl

/-- Settles O1: `IDLE` has no gate, since it has no effect to hold back. -/
theorem idleChangesNothing : Obligations.IdleChangesNothing :=
  ⟨decodeEvent_make_idle, exec_idle⟩

/-- With no word left the port carries the word of `IDLE` (log entry 1). -/
theorem fetchWord_of_nil {s : State} (h : s.port = []) : fetchWord s = idleWord := by
  rw [fetchWord, h]

theorem beginStep_of_nil {s : State} (h : s.port = []) : beginStep s = { s with emitted := [] } := by
  rw [beginStep, h, List.tail_nil]

/-- Settles O17: the word of an empty port is `IDLE`, and no word is taken. -/
theorem emptyPortIsAnIdleStep : Obligations.EmptyPortIsAnIdleStep := by
  intro s hcfg hport
  have hidle : decodeEvent idleWord = .idle := by decide
  rw [step_of_wellFormed hcfg, fetchWord_of_nil hport, hidle, exec_idle, beginStep_of_nil hport]

/-! ### `STEP` (R190) -/

theorem decodeEvent_make_step (d : Half) : decodeEvent (EventWord.make 0x6#4 d) = .step := by
  simp [decodeEvent]

theorem exec_step_of_halted {s : State} (hhalted : s.halted = true) : exec .step s = .next s := by
  rw [exec, execStep, whenLive_of_halted hhalted]

/-- Settles O11: the five phases, each by the lemma of the component its operation belongs to. -/
theorem stepRunsThePhaseOperation : Obligations.StepRunsThePhaseOperation := by
  refine ⟨decodeEvent_make_step, fun s p i hlive hphase hrow => ?_, fun s => exec_step_of_halted⟩
  have hphase_eq : ∀ q : BitVec 3, p = q.toNat → s.phase = q := fun q hq => BitVec.eq_of_toNat_eq (hphase.trans hq)
  simp only [List.mem_cons, Prod.mk.injEq, List.not_mem_nil, or_false] at hrow
  rcases hrow with ⟨rfl, rfl⟩ | ⟨rfl, rfl⟩ | ⟨rfl, rfl⟩ | ⟨rfl, rfl⟩ | ⟨rfl, rfl⟩
  · exact exec_step_rps0 hlive (hphase_eq 0#3 rfl)
  · exact exec_step_rps1 hlive (hphase_eq 1#3 rfl)
  · exact exec_step_pi hlive (hphase_eq 2#3 rfl)
  · exact exec_step_parse_of_live hlive (hphase_eq 3#3 rfl)
  · exact exec_step_done_of_live hlive (hphase_eq 4#3 rfl)

/-- R29: the advance of `PHASE`, as a number. -/
theorem advancePhase_phase_toNat (s : State) : (advancePhase s).phase.toNat = (s.phase.toNat + 1) % 5 := by
  rw [advancePhase_phase, BitVec.toNat_ofNat]
  omega

/-- The phase operation leaves `PHASE` to `STEP`, which advances it once. -/
theorem exec_step_phase {s t : State} (hlive : s.halted = false) (h : exec .step s = .next t) :
    t.phase.toNat = (s.phase.toNat + 1) % 5 := by
  rcases exec_operationOf h nofun with ⟨hhalted, -⟩ | ⟨-, u, hu, hstep, hreset, ht⟩
  · exact absurd (hlive.symm.trans hhalted) nofun
  · obtain ⟨-, rfl⟩ := ht.resolve_left fun hno => hno.1 rfl
    rw [advancePhase_phase_toNat, (effect_of_exec hlive hu hstep hreset).phase_eq]

/-- Settles O12: (I-b) excludes the refusal of the dispatch, and (I-a) that of `PARSE`. -/
theorem stepAdvancesThePhase : Obligations.StepAdvancesThePhase := by
  intro s hlive hslot hphase
  rcases exec_answers .step s with ⟨t, ht⟩ | ⟨-, -, hp⟩ | ⟨-, -, hready, hempty⟩
  · exact ⟨t, ht, exec_step_phase hlive ht⟩
  · exact absurd hphase (Nat.not_le.2 hp)
  · rw [SlotAgrees, hready, hempty] at hslot
    exact absurd hslot nofun

/-! ### `RESET` (R194) -/

theorem decodeEvent_make_reset (d : Half) : decodeEvent (EventWord.make 0xF#4 d) = .reset := by
  simp [decodeEvent]

theorem exec_reset (s : State) : exec .reset s = .next (resetRegisters s.cfg.pi s) := rfl

/-- Settles O14: the table of R44 is the model's reset state under the core's own configuration. -/
theorem resetRestoresEveryRegister : Obligations.ResetRestoresEveryRegister :=
  ⟨decodeEvent_make_reset, exec_reset⟩

/-! ### The reserved event codes (R195) -/

/-- The operations of the event codes 0x7 to 0xE. -/
abbrev reservedOperations : List Instr :=
  [.reserved7, .reserved8, .reserved9, .reservedA, .reservedB, .reservedC, .reservedD, .reservedE]

/-- The decoder reads every word of these codes as one of them, whatever its operand (30_encoding.md R82). -/
theorem decodeEvent_mem_reservedOperations {ev : EventWord} (hlo : 7 ≤ ev.op.toNat) (hhi : ev.op.toNat ≤ 14) :
    decodeEvent ev ∈ reservedOperations := by
  have hcodes : ∀ op : BitVec 4, 7 ≤ op.toNat → op.toNat ≤ 14 →
      op = 0x7#4 ∨ op = 0x8#4 ∨ op = 0x9#4 ∨ op = 0xA#4 ∨ op = 0xB#4 ∨ op = 0xC#4 ∨ op = 0xD#4 ∨ op = 0xE#4 := by
    decide
  rcases hcodes ev.op hlo hhi with e | e | e | e | e | e | e | e <;> simp [decodeEvent, e]

/-- The eight differ in their code only. -/
theorem exec_reserved {i : Instr} (hi : i ∈ reservedOperations) (s : State) : exec i s = reservedEvent s := by
  simp only [reservedOperations, List.mem_cons, List.not_mem_nil, or_false] at hi
  rcases hi with rfl | rfl | rfl | rfl | rfl | rfl | rfl | rfl <;> rfl

theorem reservedEvent_of_live {s : State} (hlive : s.halted = false) :
    reservedEvent s = .next (raiseFatal .reservedEvent s) :=
  whenLive_of_live hlive _

theorem reservedEvent_of_halted {s : State} (hhalted : s.halted = true) : reservedEvent s = .next s :=
  whenLive_of_halted hhalted _

/-- Settles O13: every reserved code raises the same fatal halt, whose cause has the code 2. -/
theorem reservedCodesHaltTheCore : Obligations.ReservedCodesHaltTheCore := by
  refine ⟨fun n d hlo hhi => ?_, fun i hi s hlive => ?_, fun i hi s hhalted => ?_⟩
  · have hop : (EventWord.make (BitVec.ofNat 4 n) d).op.toNat = n := by
      rw [make_op, BitVec.toNat_ofNat, Nat.mod_eq_of_lt (by omega)]
    exact decodeEvent_mem_reservedOperations (by omega) (by omega)
  · rw [exec_reserved hi, reservedEvent_of_live hlive]
    rfl
  · rw [exec_reserved hi, reservedEvent_of_halted hhalted]

/-! ### The freeze of a halted core (R196, 60_exceptions.md R213, R214) -/

/-- R196: every operation but `RESET` leaves a halted core as it is. -/
theorem exec_of_halted {i : Instr} {s : State} (hi : i ≠ .reset) (hhalted : s.halted = true) :
    exec i s = .next s := by
  have hclass := runClass_of_busy (s := s) (.inl hhalted)
  cases i with
  | reset => exact absurd rfl hi
  | idle => exact exec_idle s
  | ovf => exact exec_ovf_of_halted hhalted
  | edge0 hw => exact exec_edge0_of_halted hhalted hw
  | edge1 hw => exact exec_edge1_of_halted hhalted hw
  | sample => exact exec_sample_of_halted hhalted
  | rx b => exact exec_rx_of_halted hhalted b
  | step => exact exec_step_of_halted hhalted
  | rps0 => exact exec_rps0_of_halted hhalted
  | rps1 => exact exec_rps1_of_halted hhalted
  | pi => exact exec_pi_of_halted hhalted
  | parse => exact exec_parse_of_not_ready (.inl hhalted)
  | done => exact exec_done_of_halted hhalted
  | forward => exact hclass .forward
  | backward => exact hclass .backward
  | left => exact hclass .left
  | right => exact hclass .right
  | stop => exact hclass .stop
  | unknown _ => exact hclass .unknown
  | _ => exact reservedEvent_of_halted hhalted

/-- Settles O15: the gate of every operation but `RESET`. -/
theorem haltedCoreIgnoresAllButReset : Obligations.HaltedCoreIgnoresAllButReset :=
  fun _ _ => exec_of_halted

/-- Settles O39: a step of a halted core is `RESET`, or takes its word from the port and changes nothing else. -/
theorem haltEndsOnlyByReset : Obligations.HaltEndsOnlyByReset := by
  intro s t hhalted h
  obtain ⟨-, hexec⟩ := step_next h
  by_cases hi : decodeEvent (fetchWord s) = .reset
  · rw [hi] at hexec
    rw [execReset_next hexec]
    exact .inl ⟨hi, rfl, rfl⟩
  · have hkeep : exec (decodeEvent (fetchWord s)) (beginStep s) = .next (beginStep s) := exec_of_halted hi hhalted
    rw [hkeep] at hexec
    injection hexec with ht
    subst ht
    exact .inr ⟨rfl, rfl⟩

end Sys2Proof.Machine

end
